-- ==== Sys2Proof/Word.lean ====
section
/-! DEFINITION. The widths of the values this block works on (00_scope.md R7: every value is an unsigned number of a stated width). -/

namespace Sys2Proof

/-- One byte of the window, of the key, of a command. -/
abbrev Byte := BitVec 8

/-- A DES half, C or D (42_des.md R172). -/
abbrev Half := BitVec 28

/-- A DES round subkey (42_des.md R172). -/
abbrev Subkey := BitVec 48

/-- A word of the AES expansion (44_aes.md R213). -/
abbrev AesWord := BitVec 32

/-- A 64-bit register: OPERAND, PRIM_RESULT, one SUBKEY entry (10_state.md R29, R30, R32). -/
abbrev Reg64 := BitVec 64

/-- One ROUNDKEY entry, 16 bytes, its byte 0 the most significant (10_state.md R33). -/
abbrev RoundKey := BitVec 128

end Sys2Proof
end

