-- ==== Sys2Proof/Config.lean ====
section
/-! DEFINITION. What the spec leaves open and no register holds: the free value of 20_memory.md R64. -/

namespace Sys2Proof

/-- The bytes that the block leaves unspecified, by the stream of the instance and the number of the draw in it
(20_memory.md R64: "A model treats it as a free draw, under no law"). It has no body: nothing can be proved of any value
of it, nor of how two of its values relate. Log entry 4. -/
opaque Config.freeByte : Nat → Nat → Byte

end Sys2Proof
end

