-- ==== Sys2Proof/Syntax.lean ====
section
/-! DEFINITION. The syntax: the six commands of 30_encoding.md R91, and the notation for host programs of R95 and R96. -/

namespace Sys2Proof

/-- The commands of the block, one per row of the opcode table (30_encoding.md R91). No command has an operand field
(R90): every operand is a register, latched at issue (R93). -/
inductive Instr where
  /-- DES_KS, 0x01: the DES key schedule (42_des.md R173). -/
  | desKs
  /-- TDES_KS, 0x02: the Triple-DES key schedule (43_tdes.md R192). -/
  | tdesKs
  /-- AES_KE, 0x03: the AES key expansion (44_aes.md R225). -/
  | aesKe
  /-- PERMUTE_PC1, 0x04: PC-1 of OPERAND (41_primitives.md R150). -/
  | permutePc1
  /-- PERMUTE_PC2, 0x05: PC-2 of OPERAND[55:0] (41_primitives.md R151). -/
  | permutePc2
  /-- ROTL28, 0x06: OPERAND[27:0] rotated left by SHIFT (41_primitives.md R153). -/
  | rotl28
  deriving DecidableEq, Repr

/-- All six commands, in the order of the opcode table. -/
def Instr.all : List Instr :=
  [.desKs, .tdesKs, .aesKe, .permutePc1, .permutePc2, .rotl28]

/-- A value of a host's program: byte `byte` of the host's own value named `name` (30_encoding.md R96 writes x_b). -/
structure HostVar where
  name : Nat
  byte : Nat
  deriving DecidableEq, Repr

/-- The forms of a host program (30_encoding.md R95). -/
inductive HostForm where
  /-- `WR off, v` -/
  | wr (off : Nat) (v : Byte)
  /-- `RD off -> x` -/
  | rd (off : Nat) (x : HostVar)
  /-- `L: ...` -/
  | label (l : Nat)
  /-- `BNZ x & m, L`: the host jumps to label `l` if `x & m` is not 0 -/
  | bnz (x : HostVar) (m : Byte) (l : Nat)
  deriving DecidableEq, Repr

/-- The pseudo-instructions of 30_encoding.md R96. POLL and RUN carry the label they poll at and the host value that
receives STATUS. -/
inductive HostPseudo where
  /-- `ISSUE op` -/
  | issue (op : Byte)
  /-- `POLL` -/
  | poll (l : Nat) (s : HostVar)
  /-- `RUN op` -/
  | run (op : Byte) (l : Nat) (s : HostVar)
  /-- `WRKEY b0 .. b(n-1)` -/
  | wrKey (bytes : List Byte)
  /-- `WROP v` -/
  | wrOp (v : Reg64)
  /-- `RDSUB j -> x` -/
  | rdSub (j : Nat) (x : Nat)
  /-- `RDRK r -> x` -/
  | rdRk (r : Nat) (x : Nat)
  /-- `RDPRIM -> x` -/
  | rdPrim (x : Nat)
  deriving DecidableEq, Repr

end Sys2Proof
end

