-- ==== Sys2Proof/WellFormed.lean ====
section
/-! DEFINITION. Which commands, command bytes and host forms are well formed. -/

namespace Sys2Proof

/-- A command is well formed by its shape alone: it carries no operand field that could be out of range
(30_encoding.md R90). -/
def Instr.wf (i : Instr) : Bool := Instr.all.contains i

/-- The bytes that spell a command: RSVD = 0 and OP in 0x1..0x6 (30_encoding.md R90 to R92). -/
def commandByteWf (v : Byte) : Bool :=
  v >>> 4 == 0 && 1 ≤ v.toNat % 16 && v.toNat % 16 ≤ 6

/-- A form of a host program is well formed if its offset lies in the window (30_encoding.md R95; 20_memory.md R60). -/
def HostForm.wf : HostForm → Bool
  | .wr off _ => off < 0x400
  | .rd off _ => off < 0x400
  | .label _ => true
  | .bnz _ _ _ => true

/-- A pseudo-instruction is well formed if the registers it expands to exist: at most 32 key bytes, SUBKEY[0..47],
ROUNDKEY[0..14] (30_encoding.md R96; 10_state.md R31 to R33). -/
def HostPseudo.wf : HostPseudo → Bool
  | .issue _ => true
  | .poll _ _ => true
  | .run _ _ _ => true
  | .wrKey bytes => bytes.length ≤ 32
  | .wrOp _ => true
  | .rdSub j _ => j < 48
  | .rdRk r _ => r < 15
  | .rdPrim _ => true

/-- The labels a host program places. -/
def placedLabels : List HostForm → List Nat
  | [] => []
  | .label l :: rest => l :: placedLabels rest
  | .wr _ _ :: rest => placedLabels rest
  | .rd _ _ :: rest => placedLabels rest
  | .bnz _ _ _ :: rest => placedLabels rest

/-- The label a form jumps to is placed somewhere in the program. -/
def HostForm.targetPlaced (placed : List Nat) : HostForm → Bool
  | .bnz _ _ l => placed.contains l
  | .wr _ _ => true
  | .rd _ _ => true
  | .label _ => true

/-- A host program is well formed if its forms are, no label is placed twice and every jump has its label. -/
def hostProgramWf (p : List HostForm) : Bool :=
  p.all HostForm.wf && decide (placedLabels p).Nodup && p.all (HostForm.targetPlaced (placedLabels p))

end Sys2Proof
end

