-- ==== Sys2Proof/Decode.lean ====
section
/-! DEFINITION. The decoder of command bytes, total and rejecting by name, and the encoder, both from
30_encoding.md R90 to R94. -/

namespace Sys2Proof

/-- Why a byte sequence is not a command. -/
inductive DecodeError where
  /-- RSVD, bits 7:4, is not 0 (30_encoding.md R90, R92). -/
  | reservedBits (rsvd : BitVec 4)
  /-- OP is 0x0 or 0x7..0xF (30_encoding.md R92). -/
  | reservedOp (op : BitVec 4)
  /-- There is no byte to decode. -/
  | noByte
  deriving DecidableEq, Repr

/-- CMD[3:0], the OP field (30_encoding.md R90). -/
def opField (v : Byte) : BitVec 4 := v.extractLsb' 0 4

/-- CMD[7:4], the RSVD field (30_encoding.md R90). -/
def rsvdField (v : Byte) : BitVec 4 := v.extractLsb' 4 4

/-- The opcode map of 30_encoding.md R91, on the OP field. -/
def decodeOp (op : BitVec 4) : Option Instr :=
  match op.toNat with
  | 0x1 => some .desKs
  | 0x2 => some .tdesKs
  | 0x3 => some .aesKe
  | 0x4 => some .permutePc1
  | 0x5 => some .permutePc2
  | 0x6 => some .rotl28
  | _ => none

/-- One command byte (30_encoding.md R90, R91). RSVD is looked at first, as in 40_commands.md R123. -/
def decodeByte (v : Byte) : Except DecodeError Instr :=
  if rsvdField v ≠ 0 then .error (.reservedBits (rsvdField v))
  else
    match decodeOp (opField v) with
    | some i => .ok i
    | none => .error (.reservedOp (opField v))

/-- The command a byte spells, if it spells one. -/
def commandOf (v : Byte) : Option Instr :=
  match decodeByte v with
  | .ok i => some i
  | .error _ => none

/-- A command at the head of a byte sequence, with the bytes after it: every command is exactly one byte long
(30_encoding.md R94). -/
def decode : List Byte → Except DecodeError (Instr × List Byte)
  | [] => .error .noByte
  | v :: rest =>
    match decodeByte v with
    | .ok i => .ok (i, rest)
    | .error e => .error e

/-- The OP field of each command (30_encoding.md R91). -/
def encodeOp : Instr → BitVec 4
  | .desKs => 0x1
  | .tdesKs => 0x2
  | .aesKe => 0x3
  | .permutePc1 => 0x4
  | .permutePc2 => 0x5
  | .rotl28 => 0x6

/-- The byte of each command: RSVD = 0 above OP (30_encoding.md R90). -/
def encodeByte (i : Instr) : Byte := (0#4 ++ encodeOp i : BitVec 8)

/-- A command as a sequence of bytes (30_encoding.md R94: one byte). -/
def encode (i : Instr) : List Byte := [encodeByte i]

/-- The byte that a row of the opcode table gives: `nbits` bits of `w`, the bits above them 0. -/
def tableByte (nbits w : Nat) : Byte := BitVec.ofNat 8 (w % 2 ^ nbits)

/-- What the decoder reads from a word numbered as the opcode table numbers it; a command is one byte, the table's
first. -/
def decodeTableWord (nbits w : Nat) : Option Instr :=
  match decode [tableByte nbits w] with
  | .ok (i, _) => some i
  | .error _ => none

end Sys2Proof
end

