-- ==== Sys2Proof/Machine/State.lean ====
section
/-! DEFINITION. The state of one instance: the spec's registers and hidden state (10_state.md), and beside them the
model's own plain data about the outside world. Also the ways a step can stop. -/

namespace Sys2Proof.Machine

/-- The latched inputs of a command in progress, PEND (10_state.md R40). -/
structure Latched where
  /-- The command, PEND.op: four bits in the spec, of which only the six opcodes can be latched. Log entry 9. -/
  op : Instr
  keylen : Byte
  key : Vector Byte 32
  operand : Reg64
  shift : Byte
  deriving DecidableEq, Repr

/-- The spec's state of one instance (10_state.md R20): the host-visible registers of R23 to R33 and the hidden PEND of
R40. -/
structure Block where
  cmd : Byte
  status : Byte
  keylen : Byte
  resultCount : Byte
  shift : Byte
  operand : Reg64
  primResult : Reg64
  key : Vector Byte 32
  subkey : Vector Reg64 48
  roundkey : Vector RoundKey 15
  pend : Option Latched
  deriving DecidableEq, Repr

/-- What the outside and the engine can do in one step (60_exceptions.md R268, kinds 1 to 3). Addresses are host
addresses; `bits` is the width of the access. -/
inductive Action where
  /-- A host read of `bits` bits at a host address. -/
  | read (addr : Nat) (bits : Nat)
  /-- A host write of `bits` bits at a host address; `v` is the byte written when `bits` is 8. -/
  | write (addr : Nat) (bits : Nat) (v : Byte)
  /-- The engine gets to move: it completes the command in progress, if there is one. -/
  | engine
  deriving DecidableEq, Repr

/-- One entry of the total order of 20_memory.md R72: an action, or the platform's reset, which overrides whatever
would have happened in the same step (60_exceptions.md R255, R268). -/
inductive Event where
  | act (a : Action)
  | reset (overridden : Option Action)
  deriving DecidableEq, Repr

/-- One instance, and the model's own data about the world around it. -/
structure State where
  /-- The spec's state. -/
  block : Block
  /-- KSE_BASE, where the platform has placed the window (20_memory.md R60). No step writes it. Log entry 6. -/
  kseBase : Nat
  /-- The steps still to come, in the total order of 20_memory.md R72. Log entry 1. -/
  schedule : List Event
  /-- The (window offset, byte) pairs that host reads have returned, newest first. Log entry 13. -/
  reads : List Host.Cell
  /-- The stream that this instance's unspecified bytes come from (20_memory.md R64). No step writes it. Instances with
  streams of their own have unrelated bytes; two states with equal streams and draws would get equal ones. Log entry 24. -/
  stream : Nat
  /-- How many unspecified bytes of the stream have been returned (20_memory.md R64). Log entry 5. -/
  draws : Nat
  deriving DecidableEq, Repr

/-- The registers of the window, each byte named (20_memory.md R70). -/
inductive Slot where
  | cmd
  | status
  | keylen
  | resultCount
  | shift
  | operand (k : Fin 8)
  | primResult (k : Fin 8)
  | key (j : Fin 32)
  | subkey (j : Fin 48) (b : Fin 8)
  | roundkey (r : Fin 15) (k : Fin 16)
  deriving DecidableEq, Repr

/-- The error codes of STATUS.ERRCODE (60_exceptions.md R250). Codes 4 to 15 are never produced. -/
inductive ErrCode where
  | noError
  | invalidKeyLength
  | invalidCommand
  | invalidOperand
  deriving DecidableEq, Repr

/-- What `Compute_op` returns (40_commands.md R120): the entries a command writes, each array from its entry 0 on, and
RESULT_COUNT. -/
structure Results where
  count : Byte
  /-- PRIM_RESULT, if the command writes it. -/
  prim : Option Reg64
  subkeys : List Subkey
  roundkeys : List RoundKey
  deriving DecidableEq, Repr

/-- Which of the three causes of 20_memory.md R66 a bus error has. -/
inductive BusErrorCause where
  /-- The offset is reserved. -/
  | reservedOffset
  /-- The register is read-only and the access is a write. -/
  | readOnlyRegister
  /-- The access is not one byte wide. -/
  | accessWidth
  deriving DecidableEq, Repr

/-- The ways a run stops with a fault. -/
inductive Fault where
  /-- BusError of 20_memory.md R66 and 60_exceptions.md R252, at a window offset: raised by a host read or write, never by
  a command. It is the spec's own fault and "never cleared". Safe: nothing is claimed of the run after it. -/
  | busError (cause : BusErrorCause) (off : Nat)
  deriving DecidableEq, Repr

/-- The ways a step is refused. -/
inductive Refusal where
  /-- A command with no meaning yet, by its mnemonic: raised by `exec`'s own arms only, and by none of them now. Safe. -/
  | notModelled (mnemonic : String)
  deriving DecidableEq, Repr

/-- The spec's state after reset (10_state.md R45): every register and array zero, PEND none. -/
def Block.reset : Block where
  cmd := 0
  status := 0
  keylen := 0
  resultCount := 0
  shift := 0
  operand := 0
  primResult := 0
  key := Vector.replicate 32 0
  subkey := Vector.replicate 48 0
  roundkey := Vector.replicate 15 0
  pend := none

/-- One instance right after reset, with nothing scheduled, nothing read and the window at host address 0 (the last five
are the model's own fields: log entries 1, 5, 6, 13 and 24). -/
def State.reset : State where
  block := Block.reset
  kseBase := 0
  schedule := []
  reads := []
  stream := 0
  draws := 0

end Sys2Proof.Machine
end

