-- ==== Sys2Proof/Machine/Flags.lean ====
section
/-! DEFINITION. STATUS: its fields and its six values (10_state.md R24, R25; 60_exceptions.md R250). -/

namespace Sys2Proof.Machine

/-- STATUS.BUSY, bit 0 (10_state.md R24). -/
def busyFlag (st : Byte) : Bool := st.getLsbD 0

/-- STATUS.DONE, bit 1. -/
def doneFlag (st : Byte) : Bool := st.getLsbD 1

/-- STATUS.ERROR, bit 2. -/
def errorFlag (st : Byte) : Bool := st.getLsbD 2

/-- STATUS bit 3, reserved. -/
def reservedFlag (st : Byte) : Bool := st.getLsbD 3

/-- STATUS.ERRCODE, bits 7:4. -/
def errCodeField (st : Byte) : BitVec 4 := st.extractLsb' 4 4

/-- The number of an error code (60_exceptions.md R250). -/
def ErrCode.number : ErrCode → BitVec 4
  | .noError => 0
  | .invalidKeyLength => 1
  | .invalidCommand => 2
  | .invalidOperand => 3

/-- STATUS after reset (10_state.md R45). -/
def statusIdle : Byte := 0x00

/-- STATUS while a command is in progress (40_commands.md R124). -/
def statusBusy : Byte := 0x01

/-- STATUS after completion (40_commands.md R127). -/
def statusDone : Byte := 0x02

/-- STATUS after a failing issue: `0x04 | (code << 4)` (40_commands.md R121, R125). -/
def statusError (code : ErrCode) : Byte := 0x04 ||| (code.number.setWidth 8 <<< 4)

/-- The six values STATUS may hold (10_state.md R25). -/
def legalStatuses : List Byte := [0x00, 0x01, 0x02, 0x14, 0x24, 0x34]

end Sys2Proof.Machine
end

