-- ==== Sys2Proof/Machine/Operands.lean ====
section
/-! DEFINITION. Byte order and operand assembly: big-endian byte sequences (00_scope.md R10; 20_memory.md R65) and the
operands each command takes from the latched inputs (30_encoding.md R93). -/

namespace Sys2Proof.Machine

/-- `be(b0, ..., b(n-1))` as an `n`-bit value, the first byte the most significant (00_scope.md R10). -/
def beBits (n : Nat) (bytes : List Byte) : BitVec n :=
  bytes.foldl (fun acc b => (acc <<< 8) ||| b.setWidth n) 0

/-- Byte `k` of a value in big-endian order, byte 0 the most significant (00_scope.md R10). -/
def beByte {w : Nat} (v : BitVec w) (k : Nat) : Byte := v.extractLsb' (w - 8 - 8 * k) 8

/-- A value with byte `k`, in big-endian order, replaced (20_memory.md R63: `R[OPERAND][63-8k : 56-8k] <- v`). -/
def setBeByte {w : Nat} (x : BitVec w) (k : Nat) (v : Byte) : BitVec w :=
  (x &&& ~~~((0xFF#8).setWidth w <<< (w - 8 - 8 * k))) ||| (v.setWidth w <<< (w - 8 - 8 * k))

/-- `B[a:b]`: the bytes with indices `a` to `b-1` (00_scope.md R10). -/
def slice (bytes : List Byte) (a b : Nat) : List Byte := (bytes.drop a).take (b - a)

/-- The latched key bytes `key[0 : keylen]` (10_state.md R31: bytes at or above KEYLEN are ignored). -/
def Latched.keyBytes (L : Latched) : List Byte := slice L.key.toList 0 L.keylen.toNat

/-- `key[0:8]`, the operand of DES_KS (30_encoding.md R93). -/
def Latched.desKey (L : Latched) : List Byte := slice L.key.toList 0 8

/-- `operand[55:0]`, the source of PERMUTE_PC2 (30_encoding.md R93). -/
def Latched.source56 (L : Latched) : BitVec 56 := L.operand.extractLsb' 0 56

/-- `operand[27:0]`, the value of ROTL28 (30_encoding.md R93). -/
def Latched.value28 (L : Latched) : Half := L.operand.extractLsb' 0 28

/-- `operand[63:56]`, which PERMUTE_PC2 requires to be 0 (30_encoding.md R93). -/
def Latched.above56 (L : Latched) : BitVec 8 := L.operand.extractLsb' 56 8

/-- `operand[63:28]`, which ROTL28 requires to be 0 (30_encoding.md R93). -/
def Latched.above28 (L : Latched) : BitVec 36 := L.operand.extractLsb' 28 36

/-- The key-length check of 40_commands.md R123. -/
def checkKeyLength (accepted : List Nat) (L : Latched) : ErrCode :=
  if L.keylen.toNat ∈ accepted then .noError else .invalidKeyLength

end Sys2Proof.Machine
end

