-- ==== Sys2Proof/Machine/Ops.lean ====
section
/-! DEFINITION. The named operations on the registers: the window's map and its bytes (20_memory.md), and the life of a
command that all six share (40_commands.md): issue, latch, error entry, completion. -/

namespace Sys2Proof.Machine

/-! ## The window -/

/-- The size of the window in bytes (20_memory.md R60). -/
def windowSize : Nat := 0x400

/-- The register byte at a window offset, none where the offset is reserved or outside the window
(20_memory.md R70). -/
def slotOf (off : Nat) : Option Slot :=
  if off = 0x000 then some .cmd
  else if off = 0x001 then some .status
  else if off = 0x002 then some .keylen
  else if off = 0x003 then some .resultCount
  else if off = 0x004 then some .shift
  else if h : 0x008 ≤ off ∧ off < 0x010 then some (.operand ⟨off - 0x008, by omega⟩)
  else if h : 0x010 ≤ off ∧ off < 0x018 then some (.primResult ⟨off - 0x010, by omega⟩)
  else if h : 0x020 ≤ off ∧ off < 0x040 then some (.key ⟨off - 0x020, by omega⟩)
  else if h : 0x100 ≤ off ∧ off < 0x280 then
    some (.subkey ⟨(off - 0x100) / 8, by omega⟩ ⟨(off - 0x100) % 8, by omega⟩)
  else if h : 0x300 ≤ off ∧ off < 0x3F0 then
    some (.roundkey ⟨(off - 0x300) / 16, by omega⟩ ⟨(off - 0x300) % 16, by omega⟩)
  else none

/-- The window offset of a register byte (10_state.md R23 to R33). -/
def Slot.offset : Slot → Nat
  | .cmd => 0x000
  | .status => 0x001
  | .keylen => 0x002
  | .resultCount => 0x003
  | .shift => 0x004
  | .operand k => 0x008 + k
  | .primResult k => 0x010 + k
  | .key j => 0x020 + j
  | .subkey j b => 0x100 + 8 * j + b
  | .roundkey r k => 0x300 + 16 * r + k

/-- The byte a register holds at a slot (10_state.md R23 to R33; big-endian, 20_memory.md R65). -/
def Block.readSlot (b : Block) : Slot → Byte
  | .cmd => b.cmd
  | .status => b.status
  | .keylen => b.keylen
  | .resultCount => b.resultCount
  | .shift => b.shift
  | .operand k => beByte b.operand k
  | .primResult k => beByte b.primResult k
  | .key j => b.key[j]
  | .subkey j k => beByte b.subkey[j] k
  | .roundkey r k => beByte b.roundkey[r] k

/-- The byte a register holds at a window offset, none where nothing is mapped. -/
def Block.readOffset (b : Block) (off : Nat) : Option Byte := (slotOf off).map b.readSlot

/-- The result registers, whose bytes are unspecified while BUSY = 1 (20_memory.md R64). -/
def Slot.isResult : Slot → Bool
  | .resultCount => true
  | .primResult _ => true
  | .subkey _ _ => true
  | .roundkey _ _ => true
  | .cmd => false
  | .status => false
  | .keylen => false
  | .shift => false
  | .operand _ => false
  | .key _ => false

/-- A plain store to an input register (20_memory.md R63), none for a slot that is not one: CMD, whose write issues, and
the read-only registers. -/
def Block.storeInput (b : Block) (v : Byte) : Slot → Option Block
  | .keylen => some { b with keylen := v }
  | .shift => some { b with shift := v }
  | .operand k => some { b with operand := setBeByte b.operand k v }
  | .key j => some { b with key := b.key.set j v }
  | .cmd => none
  | .status => none
  | .resultCount => none
  | .primResult _ => none
  | .subkey _ _ => none
  | .roundkey _ _ => none

/-! ## The life of a command -/

/-- STATUS.BUSY = 1. -/
def Block.busy (b : Block) : Bool := busyFlag b.status

/-- ClearResults (40_commands.md R122). -/
def Block.clearResults (b : Block) : Block :=
  { b with
    resultCount := 0
    primResult := 0
    subkey := Vector.replicate 48 0
    roundkey := Vector.replicate 15 0 }

/-- The inputs latched at the issue of a command (40_commands.md R121). -/
def Block.latch (b : Block) (i : Instr) : Latched where
  op := i
  keylen := b.keylen
  key := b.key
  operand := b.operand
  shift := b.shift

/-- Error entry, the one "trap" of this block (60_exceptions.md R256; 40_commands.md R125): CMD holds the byte, the results
are cleared, STATUS holds the code, PEND is none, and nothing else changes. No address is saved and control goes
nowhere; there is no return (R257): the next accepted issue or a reset replaces STATUS. -/
def Block.errorEntry (b : Block) (v : Byte) (code : ErrCode) : Block :=
  { b.clearResults with cmd := v, status := statusError code, pend := none }

/-- A valid issue: the inputs are latched and the block is BUSY (40_commands.md R121, R124). -/
def Block.accept (b : Block) (v : Byte) (L : Latched) : Block :=
  { b.clearResults with cmd := v, status := statusBusy, pend := some L }

/-- `Issue(v)` of 40_commands.md R121 for the byte of command `i`, while BUSY = 0, with the code its validation gave. -/
def Block.issue (b : Block) (i : Instr) (code : ErrCode) : Block :=
  if code = .noError then b.accept (encodeByte i) (b.latch i) else b.errorEntry (encodeByte i) code

/-- An array with its first entries replaced by the given ones; entries past them keep their value
(40_commands.md R127: `for r in ...: SUBKEY[r] <- ...`). -/
def storePrefix {α : Type} {n : Nat} (xs : List α) (v : Vector α n) : Vector α n :=
  Vector.ofFn fun j => (xs[j.val]?).getD v[j]

/-- `Complete()` of 40_commands.md R127 with the results of the command in progress. -/
def Block.complete (b : Block) (r : Results) : Block :=
  { b with
    resultCount := r.count
    primResult := r.prim.getD b.primResult
    subkey := storePrefix (r.subkeys.map (BitVec.setWidth 64)) b.subkey
    roundkey := storePrefix r.roundkeys b.roundkey
    pend := none
    status := statusDone }

/-- The results of a primitive command: PRIM_RESULT, zero-extended, and RESULT_COUNT = 1 (40_commands.md R127). -/
def primResults {w : Nat} (v : BitVec w) : Results where
  count := 1
  prim := some (v.setWidth 64)
  subkeys := []
  roundkeys := []

/-- The same world with another block state. -/
def State.withBlock (s : State) (b : Block) : State := { s with block := b }

/-- The step of command `i` that is due at `s`, from its `Validate` and its `Compute` (40_commands.md R120). A command acts
in two atomic steps. While BUSY = 0 it is the issue (R121). While BUSY = 1 and `i` is the command in progress it is
the completion (R127). While BUSY = 1 and another command is in progress `i` does nothing (R126). Log entry 10. -/
def commandStep (i : Instr) (validate : Latched → ErrCode) (compute : Latched → Results) (s : State) :
    Host.Outcome State Fault Refusal :=
  if s.block.busy then
    match s.block.pend with
    | some L => if L.op = i then .next (s.withBlock (s.block.complete (compute L))) else .next s
    | none => .next s
  else .next (s.withBlock (s.block.issue i (validate (s.block.latch i))))

end Sys2Proof.Machine
end

