-- ==== Sys2Proof/Machine/Aes.lean ====
section
/-! DEFINITION. The AES key expansion and AES_KE (44_aes.md). -/

namespace Sys2Proof.Machine

/-- `RotWord(w)` of 44_aes.md R213. -/
def rotWord (w : AesWord) : AesWord := (w <<< 8) ||| (w >>> 24)

/-- `SubWord(w)` of 44_aes.md R214: each byte through the S-box on its own. -/
def subWord (w : AesWord) : AesWord :=
  sboxAt (w.extractLsb' 24 8) ++ sboxAt (w.extractLsb' 16 8) ++ sboxAt (w.extractLsb' 8 8) ++ sboxAt (w.extractLsb' 0 8)

/-- `RCON[k] << 24`, a 32-bit word (44_aes.md R212). -/
def rconWord (k : Nat) : AesWord := (rconAt k).setWidth 32 <<< 24

/-- The number of rounds Nr for Nk words of key: 10, 12, 14 for 4, 6, 8 (44_aes.md R224). -/
def aesRounds (nk : Nat) : Nat :=
  if nk = 4 then 10 else if nk = 6 then 12 else 14

/-- `temp` for word `i`, from the word before it: the cases A, B and C of 44_aes.md R221. -/
def aesTemp (nk i : Nat) (prev : AesWord) : AesWord :=
  if i % nk = 0 then subWord (rotWord prev) ^^^ rconWord (i / nk - 1)
  else if nk > 6 ∧ i % nk = 4 then subWord prev
  else prev

/-- The next word of the buffer, `w[i] = w[i-Nk] ^ temp` with `i` the number of words so far (44_aes.md R220 step 3). -/
def aesNextWord (nk : Nat) (w : List AesWord) : AesWord :=
  w.getD (w.length - nk) 0 ^^^ aesTemp nk w.length (w.getD (w.length - 1) 0)

/-- The buffer with so many more words (44_aes.md R220 step 3). -/
def aesExtend (nk : Nat) : Nat → List AesWord → List AesWord
  | 0, w => w
  | more + 1, w => aesExtend nk more (w ++ [aesNextWord nk w])

/-- The first Nk words, each four key bytes in big-endian order (44_aes.md R220 step 2; 30_encoding.md R93). -/
def aesSeed (key : List Byte) : List AesWord :=
  (List.range (key.length / 4)).map fun i => beBits 32 (slice key (4 * i) (4 * i + 4))

/-- The whole word buffer `w`, of Nb*(Nr+1) words with Nb = 4 (44_aes.md R220 steps 2 and 3, R224). -/
def aesWords (key : List Byte) : List AesWord :=
  aesExtend (key.length / 4) (4 * (aesRounds (key.length / 4) + 1) - key.length / 4) (aesSeed key)

/-- Round key `r`: words `w[4r]` to `w[4r+3]`, each big-endian, in ascending order (44_aes.md R226). -/
def aesRoundKey (w : List AesWord) (r : Nat) : RoundKey :=
  w.getD (4 * r) 0 ++ w.getD (4 * r + 1) 0 ++ w.getD (4 * r + 2) 0 ++ w.getD (4 * r + 3) 0

/-- `AesKeyExpansion(key)` of 44_aes.md R220, on 16, 24 or 32 bytes. -/
def aesKeyExpansion (key : List Byte) : List RoundKey :=
  (List.range (aesRounds (key.length / 4) + 1)).map (aesRoundKey (aesWords key))

/-- AES_KE requires `keylen` in {16, 24, 32} (44_aes.md R225; 40_commands.md R123). -/
def validateAesKe (L : Latched) : ErrCode := checkKeyLength [16, 24, 32] L

/-- AES_KE writes ROUNDKEY[0..Nr] and RESULT_COUNT = Nr+1 (44_aes.md R225; 40_commands.md R127: `len(RK)`). -/
def computeAesKe (L : Latched) : Results where
  count := BitVec.ofNat 8 (aesKeyExpansion L.keyBytes).length
  prim := none
  subkeys := []
  roundkeys := aesKeyExpansion L.keyBytes

/-- AES_KE (44_aes.md R225). -/
def execAesKe (s : State) : Host.Outcome State Fault Refusal :=
  commandStep .aesKe validateAesKe computeAesKe s

end Sys2Proof.Machine
end

