-- ==== Sys2Proof/Machine/TableChecks.lean ====
section
/-! DEFINITION. The ROM's definition-time checks, which the spec asks a model to make by evaluation (70_reset_and_hazards.md
R282): 41_primitives.md R144, 42_des.md R171, 44_aes.md R211 and R212. Each check is a proposition, and its theorem here is
the evaluation: with a table that fails its check this file, and the machine, would not compile. -/

namespace Sys2Proof.Machine

/-! ## PC1 and PC2 (41_primitives.md R144): no entry exceeds the table's width, so InvalidTable (R141) cannot occur -/

/-- The positions from 1 to `w` that a table omits, in ascending order. -/
def omitted (w : Nat) (table : List Nat) : List Nat := (List.range' 1 w).filter fun p => p ∉ table

/-- 41_primitives.md R144, "PC1" and "PC1 halves". -/
structure Pc1WellFormed : Prop where
  length_eq : pc1.length = 56
  distinct : pc1.Nodup
  in_range : ∀ p ∈ pc1, 1 ≤ p ∧ p ≤ 64
  omits_parity : omitted 64 pc1 = [8, 16, 24, 32, 40, 48, 56, 64]
  halves_disjoint : ∀ p ∈ pc1.take 28, p ∉ pc1.drop 28

/-- 41_primitives.md R144, "PC2" and "PC2 halves". -/
structure Pc2WellFormed : Prop where
  length_eq : pc2.length = 48
  distinct : pc2.Nodup
  in_range : ∀ p ∈ pc2, 1 ≤ p ∧ p ≤ 56
  omits_eight : omitted 56 pc2 = [9, 18, 22, 25, 35, 38, 43, 54]
  selects_c : ∀ p ∈ pc2.take 24, 1 ≤ p ∧ p ≤ 28
  selects_d : ∀ p ∈ pc2.drop 24, 29 ≤ p ∧ p ≤ 56

theorem pc1_wellFormed : Pc1WellFormed where
  length_eq := rfl
  distinct := by decide +kernel
  in_range := by decide +kernel
  omits_parity := by decide +kernel
  halves_disjoint := by decide +kernel

theorem pc2_wellFormed : Pc2WellFormed where
  length_eq := rfl
  distinct := by decide +kernel
  in_range := by decide +kernel
  omits_eight := by decide +kernel
  selects_c := by decide +kernel
  selects_d := by decide +kernel

/-! ## ROT (42_des.md R171) -/

/-- The rounds of 42_des.md R171 that rotate by 1, numbered from 1. -/
def singleRotations : List Nat := (rot.zipIdx 1).filterMap fun p => if p.1 = 1 then some p.2 else none

/-- 42_des.md R171. -/
structure RotWellFormed : Prop where
  length_eq : rot.length = 16
  in_domain : ∀ n ∈ rot, n = 1 ∨ n = 2
  sum_eq : rot.sum = 28
  ones : rot.count 1 = 4
  twos : rot.count 2 = 12
  rounds_by_one : singleRotations = [1, 2, 9, 16]

theorem rot_wellFormed : RotWellFormed where
  length_eq := rfl
  in_domain := by decide
  sum_eq := by decide
  ones := by decide
  twos := by decide
  rounds_by_one := by decide

/-! ## SBOX and RCON (44_aes.md R211, R212) -/

/-- Multiplication by x in GF(2^8) modulo x^8 + x^4 + x^3 + x + 1, 0x11B. -/
def gfDouble (a : Byte) : Byte := (a <<< 1) ^^^ (if a.getLsbD 7 then 0x1B else 0)

/-- Multiplication in GF(2^8) modulo 0x11B, by the bits of `b` from the most significant. -/
def gfMul (a b : Byte) : Byte :=
  [7, 6, 5, 4, 3, 2, 1, 0].foldl (fun acc i => gfDouble acc ^^^ (if b.getLsbD i then a else 0)) 0

/-- The affine map of 44_aes.md R211: bit `i` is `b[i] ^ b[i+4] ^ b[i+5] ^ b[i+6] ^ b[i+7] ^ 0x63[i]`, indexes mod 8. -/
def sboxAffine (b : Byte) : Byte :=
  b ^^^ b.rotateRight 4 ^^^ b.rotateRight 5 ^^^ b.rotateRight 6 ^^^ b.rotateRight 7 ^^^ 0x63

/-- `inv(a)` of 44_aes.md R211 at index `a`, for every byte; `SboxWellFormed` says that they are inverses. -/
def gfInverses : List Byte :=
  [0x00, 0x01, 0x8d, 0xf6, 0xcb, 0x52, 0x7b, 0xd1, 0xe8, 0x4f, 0x29, 0xc0, 0xb0, 0xe1, 0xe5, 0xc7] ++
  [0x74, 0xb4, 0xaa, 0x4b, 0x99, 0x2b, 0x60, 0x5f, 0x58, 0x3f, 0xfd, 0xcc, 0xff, 0x40, 0xee, 0xb2] ++
  [0x3a, 0x6e, 0x5a, 0xf1, 0x55, 0x4d, 0xa8, 0xc9, 0xc1, 0x0a, 0x98, 0x15, 0x30, 0x44, 0xa2, 0xc2] ++
  [0x2c, 0x45, 0x92, 0x6c, 0xf3, 0x39, 0x66, 0x42, 0xf2, 0x35, 0x20, 0x6f, 0x77, 0xbb, 0x59, 0x19] ++
  [0x1d, 0xfe, 0x37, 0x67, 0x2d, 0x31, 0xf5, 0x69, 0xa7, 0x64, 0xab, 0x13, 0x54, 0x25, 0xe9, 0x09] ++
  [0xed, 0x5c, 0x05, 0xca, 0x4c, 0x24, 0x87, 0xbf, 0x18, 0x3e, 0x22, 0xf0, 0x51, 0xec, 0x61, 0x17] ++
  [0x16, 0x5e, 0xaf, 0xd3, 0x49, 0xa6, 0x36, 0x43, 0xf4, 0x47, 0x91, 0xdf, 0x33, 0x93, 0x21, 0x3b] ++
  [0x79, 0xb7, 0x97, 0x85, 0x10, 0xb5, 0xba, 0x3c, 0xb6, 0x70, 0xd0, 0x06, 0xa1, 0xfa, 0x81, 0x82] ++
  [0x83, 0x7e, 0x7f, 0x80, 0x96, 0x73, 0xbe, 0x56, 0x9b, 0x9e, 0x95, 0xd9, 0xf7, 0x02, 0xb9, 0xa4] ++
  [0xde, 0x6a, 0x32, 0x6d, 0xd8, 0x8a, 0x84, 0x72, 0x2a, 0x14, 0x9f, 0x88, 0xf9, 0xdc, 0x89, 0x9a] ++
  [0xfb, 0x7c, 0x2e, 0xc3, 0x8f, 0xb8, 0x65, 0x48, 0x26, 0xc8, 0x12, 0x4a, 0xce, 0xe7, 0xd2, 0x62] ++
  [0x0c, 0xe0, 0x1f, 0xef, 0x11, 0x75, 0x78, 0x71, 0xa5, 0x8e, 0x76, 0x3d, 0xbd, 0xbc, 0x86, 0x57] ++
  [0x0b, 0x28, 0x2f, 0xa3, 0xda, 0xd4, 0xe4, 0x0f, 0xa9, 0x27, 0x53, 0x04, 0x1b, 0xfc, 0xac, 0xe6] ++
  [0x7a, 0x07, 0xae, 0x63, 0xc5, 0xdb, 0xe2, 0xea, 0x94, 0x8b, 0xc4, 0xd5, 0x9d, 0xf8, 0x90, 0x6b] ++
  [0xb1, 0x0d, 0xd6, 0xeb, 0xc6, 0x0e, 0xcf, 0xad, 0x08, 0x4e, 0xd7, 0xe3, 0x5d, 0x50, 0x1e, 0xb3] ++
  [0x5b, 0x23, 0x38, 0x34, 0x68, 0x46, 0x03, 0x8c, 0xdd, 0x9c, 0x7d, 0xa0, 0xcd, 0x1a, 0x41, 0x1c]

/-- 44_aes.md R211: entry `a` of `gfInverses` is the inverse of `a` and entry 0 is 0; every entry of SBOX is the affine map
of the inverse at its index; SBOX is a bijection (marking each of its 256 entries marks all 256 bytes) with no fixed
point. -/
structure SboxWellFormed : Prop where
  length_eq : sbox.length = 256
  inverses_length : gfInverses.length = 256
  inverse_zero : gfInverses.head? = some 0
  inverse_mul : (gfInverses.zipIdx.all fun p => p.2 == 0 || gfMul (BitVec.ofNat 8 p.2) p.1 == 1) = true
  construction : ((sbox.zip gfInverses).all fun p => p.1 == sboxAffine p.2) = true
  bijection : sbox.foldl (fun seen v => seen ||| 2 ^ v.toNat) 0 = 2 ^ 256 - 1
  no_fixed_point : (sbox.zipIdx.all fun p => p.1.toNat != p.2) = true

/-- 44_aes.md R212: `RCON[k]` is x^k. -/
structure RconWellFormed : Prop where
  length_eq : rcon.length = 10
  power_zero : rconAt 0 = 1
  power_succ : ∀ k < 9, rconAt (k + 1) = gfDouble (rconAt k)

theorem sbox_wellFormed : SboxWellFormed where
  length_eq := by decide +kernel
  inverses_length := by decide +kernel
  inverse_zero := by decide +kernel
  inverse_mul := by decide +kernel
  construction := by decide +kernel
  bijection := by decide +kernel
  no_fixed_point := by decide +kernel

theorem rcon_wellFormed : RconWellFormed where
  length_eq := rfl
  power_zero := by decide +kernel
  power_succ := by decide +kernel

end Sys2Proof.Machine
end

