-- ==== Sys2Proof/Machine/Primitives.lean ====
section
/-! DEFINITION. The two leaf units and their three commands (41_primitives.md). -/

namespace Sys2Proof.Machine

/-- `BitPermute(src, W, T)` of 41_primitives.md R140, for a table of `n` entries: the entries are taken in order, the most
significant result bit first, and entry `p` selects bit `W - p`. -/
def bitPermute {w : Nat} (n : Nat) (src : BitVec w) (table : List Nat) : BitVec n :=
  table.foldl (fun r p => r.shiftConcat (src.getLsbD (w - p))) 0

/-- `RotateLeft28(value, shift)` of 41_primitives.md R152; the 28-bit width is the formula's `& mask28`. -/
def rotateLeft28 (value : Half) (shift : Nat) : Half := (value <<< shift) ||| (value >>> (28 - shift))

/-- `BitPermute(_, 64, PC1)` (41_primitives.md R150; 42_des.md R172 step 3). -/
def permutePc1 (v : Reg64) : BitVec 56 := bitPermute 56 v pc1

/-- `BitPermute(_, 56, PC2)` (41_primitives.md R151; 42_des.md R172 step 5). -/
def permutePc2 (v : BitVec 56) : Subkey := bitPermute 48 v pc2

/-- PERMUTE_PC1 accepts every operand (41_primitives.md R150; 40_commands.md R123). -/
def validatePermutePc1 (_ : Latched) : ErrCode := .noError

/-- PERMUTE_PC1's result (41_primitives.md R150). -/
def computePermutePc1 (L : Latched) : Results := primResults (permutePc1 L.operand)

/-- PERMUTE_PC1 (41_primitives.md R150). -/
def execPermutePc1 (s : State) : Host.Outcome State Fault Refusal :=
  commandStep .permutePc1 validatePermutePc1 computePermutePc1 s

/-- PERMUTE_PC2 requires `operand[63:56] = 0` (41_primitives.md R151; 40_commands.md R123). -/
def validatePermutePc2 (L : Latched) : ErrCode :=
  if L.above56 ≠ 0 then .invalidOperand else .noError

/-- PERMUTE_PC2's result (41_primitives.md R151). -/
def computePermutePc2 (L : Latched) : Results := primResults (permutePc2 L.source56)

/-- PERMUTE_PC2 (41_primitives.md R151). -/
def execPermutePc2 (s : State) : Host.Outcome State Fault Refusal :=
  commandStep .permutePc2 validatePermutePc2 computePermutePc2 s

/-- ROTL28 requires `shift` in {1, 2} and `operand[63:28] = 0` (41_primitives.md R153; 40_commands.md R123). -/
def validateRotl28 (L : Latched) : ErrCode :=
  if (L.shift ≠ 1 ∧ L.shift ≠ 2) ∨ L.above28 ≠ 0 then .invalidOperand else .noError

/-- ROTL28's result (41_primitives.md R153). -/
def computeRotl28 (L : Latched) : Results := primResults (rotateLeft28 L.value28 L.shift.toNat)

/-- ROTL28 (41_primitives.md R153). -/
def execRotl28 (s : State) : Host.Outcome State Fault Refusal :=
  commandStep .rotl28 validateRotl28 computeRotl28 s

end Sys2Proof.Machine
end

