-- ==== Sys2Proof/Machine/Des.lean ====
section
/-! DEFINITION. The DES key schedule and DES_KS (42_des.md). -/

namespace Sys2Proof.Machine

/-- The high half of a 56-bit value, `K56[55:28]` (42_des.md R172 step 4). -/
def halfC (k56 : BitVec 56) : Half := k56.extractLsb' 28 28

/-- The low half of a 56-bit value, `K56[27:0]` (42_des.md R172 step 4). -/
def halfD (k56 : BitVec 56) : Half := k56.extractLsb' 0 28

/-- The rounds of 42_des.md R172 step 5, one per rotation count: rotate both halves, then permute `C ++ D` by PC-2. -/
def desRounds : List Nat → Half → Half → List Subkey
  | [], _, _ => []
  | n :: rest, c, d =>
    permutePc2 (rotateLeft28 c n ++ rotateLeft28 d n : BitVec 56) ::
      desRounds rest (rotateLeft28 c n) (rotateLeft28 d n)

/-- The half that the first `r` rounds leave, from C0 or D0 (42_des.md R172, R174). -/
def halfAfter (c : Half) (r : Nat) : Half := (rot.take r).foldl rotateLeft28 c

/-- The key schedule of a 64-bit key (42_des.md R172, steps 3 to 6). -/
def desSchedule64 (k : Reg64) : List Subkey :=
  desRounds rot (halfC (permutePc1 k)) (halfD (permutePc1 k))

/-- `DesKeySchedule(key)` of 42_des.md R172, on 8 bytes. -/
def desKeySchedule (key : List Byte) : List Subkey := desSchedule64 (beBits 64 key)

/-- DES_KS requires `keylen` = 8 (42_des.md R173; 40_commands.md R123). -/
def validateDesKs (L : Latched) : ErrCode := checkKeyLength [8] L

/-- DES_KS writes SUBKEY[0..15] and RESULT_COUNT = 16 (42_des.md R173). -/
def computeDesKs (L : Latched) : Results where
  count := 16
  prim := none
  subkeys := desKeySchedule L.desKey
  roundkeys := []

/-- DES_KS (42_des.md R173). -/
def execDesKs (s : State) : Host.Outcome State Fault Refusal :=
  commandStep .desKs validateDesKs computeDesKs s

end Sys2Proof.Machine
end

