-- ==== Sys2Proof/Machine/Tdes.lean ====
section
/-! DEFINITION. The Triple-DES key schedule and TDES_KS (43_tdes.md). -/

namespace Sys2Proof.Machine

/-- `TdesSplit(key)` of 43_tdes.md R191: with 16 bytes K3 is K1's bytes, with 24 bytes it is `key[16:24]`. -/
def tdesSplit (key : List Byte) : List Byte × List Byte × List Byte :=
  if key.length = 16 then (slice key 0 8, slice key 8 16, slice key 0 8)
  else (slice key 0 8, slice key 8 16, slice key 16 24)

/-- `TripleDesKeySchedule(key)` of 43_tdes.md R190: three independent DES schedules. -/
def tripleDesKeySchedule (key : List Byte) : List Subkey × List Subkey × List Subkey :=
  let (k1, k2, k3) := tdesSplit key
  (desKeySchedule k1, desKeySchedule k2, desKeySchedule k3)

/-- TDES_KS requires `keylen` in {16, 24} (43_tdes.md R192; 40_commands.md R123). -/
def validateTdesKs (L : Latched) : ErrCode := checkKeyLength [16, 24] L

/-- TDES_KS writes the three schedules to SUBKEY[0..15], [16..31] and [32..47], and RESULT_COUNT = 48 (43_tdes.md R192). -/
def computeTdesKs (L : Latched) : Results where
  count := 48
  prim := none
  subkeys :=
    let (s1, s2, s3) := tripleDesKeySchedule L.keyBytes
    s1 ++ s2 ++ s3
  roundkeys := []

/-- TDES_KS (43_tdes.md R192). -/
def execTdesKs (s : State) : Host.Outcome State Fault Refusal :=
  commandStep .tdesKs validateTdesKs computeTdesKs s

end Sys2Proof.Machine
end

