-- ==== Sys2Proof/Machine/Dispatch.lean ====
section
/-! DEFINITION. One arm per command. -/

namespace Sys2Proof.Machine

/-- The step of a command that is due at `s`: its issue while BUSY = 0, its completion while it is in progress
(40_commands.md R121, R127; log entry 10). -/
def exec (i : Instr) (s : State) : Host.Outcome State Fault Refusal :=
  match i with
  | .desKs => Sys2Proof.Machine.execDesKs s
  | .tdesKs => Sys2Proof.Machine.execTdesKs s
  | .aesKe => Sys2Proof.Machine.execAesKe s
  | .permutePc1 => Sys2Proof.Machine.execPermutePc1 s
  | .permutePc2 => Sys2Proof.Machine.execPermutePc2 s
  | .rotl28 => Sys2Proof.Machine.execRotl28 s

end Sys2Proof.Machine
end

