-- ==== Sys2Proof/Machine/Commands.lean ====
section
/-! DEFINITION. `Validate` and `Compute` over all commands (40_commands.md R120, R123), from the commands' own. -/

namespace Sys2Proof.Machine

/-- A command's own check (40_commands.md R123, the lines after INVALID_COMMAND). -/
def validateOp (i : Instr) (L : Latched) : ErrCode :=
  match i with
  | .desKs => validateDesKs L
  | .tdesKs => validateTdesKs L
  | .aesKe => validateAesKe L
  | .permutePc1 => validatePermutePc1 L
  | .permutePc2 => validatePermutePc2 L
  | .rotl28 => validateRotl28 L

/-- `Compute_op(L)` of 40_commands.md R120. -/
def computeOp (i : Instr) (L : Latched) : Results :=
  match i with
  | .desKs => computeDesKs L
  | .tdesKs => computeTdesKs L
  | .aesKe => computeAesKe L
  | .permutePc1 => computePermutePc1 L
  | .permutePc2 => computePermutePc2 L
  | .rotl28 => computeRotl28 L

/-- `Validate(v, L)` of 40_commands.md R123: INVALID_COMMAND is checked first, then the command's own check. The command
is read from the byte `v`. -/
def validate (v : Byte) (L : Latched) : ErrCode :=
  match decodeByte v with
  | .ok i => validateOp i L
  | .error _ => .invalidCommand

end Sys2Proof.Machine
end

