-- ==== Sys2Proof/Machine/Bus.lean ====
section
/-! DEFINITION. The four kinds of step (60_exceptions.md R268): host read, host write, engine completion and reset. -/

namespace Sys2Proof.Machine

/-- How many byte addresses an access of `bits` bits touches. -/
def spanBytes (bits : Nat) : Nat := max 1 ((bits + 7) / 8)

/-- The access touches the window at `base` (20_memory.md R60). For a byte it is `base ≤ addr < base + 0x400`; an access of
another width is the block's as soon as one of its bytes is (log entry 8). -/
def selects (base addr bits : Nat) : Bool := base < addr + spanBytes bits && addr < base + windowSize

/-- A byte the host has been given at a window offset (20_memory.md R62). -/
def State.respond (s : State) (off : Nat) (v : Byte) : State := { s with reads := (off, v) :: s.reads }

/-- An unspecified byte for the host: the next free value of the instance's stream (20_memory.md R64). -/
def State.respondFree (s : State) (off : Nat) : State :=
  { s with reads := (off, Config.freeByte s.stream s.draws) :: s.reads, draws := s.draws + 1 }

/-- A host read (20_memory.md R62). An address outside the window is not decoded: nothing happens here (R60; log
entry 7). -/
def hostRead (addr bits : Nat) (s : State) : Host.Outcome State Fault Refusal :=
  if !selects s.kseBase addr bits then .next s
  else if bits ≠ 8 then .fault (.busError .accessWidth (addr - s.kseBase))
  else
    match slotOf (addr - s.kseBase) with
    | none => .fault (.busError .reservedOffset (addr - s.kseBase))
    | some slot =>
      if s.block.busy && slot.isResult then .next (s.respondFree (addr - s.kseBase))
      else .next (s.respond (addr - s.kseBase) (s.block.readSlot slot))

/-- `Issue(v)` (40_commands.md R121): ignored while BUSY (R126); otherwise the byte's command takes its issue step, and a
byte that spells no command fails with INVALID_COMMAND (30_encoding.md R92). -/
def issueByte (v : Byte) (s : State) : Host.Outcome State Fault Refusal :=
  if s.block.busy then .next s
  else
    match decodeByte v with
    | .ok i => exec i s
    | .error _ => .next (s.withBlock (s.block.errorEntry v .invalidCommand))

/-- A write to a register byte (20_memory.md R63): CMD issues, an input register stores, any other raises BusError. -/
def writeSlot (off : Nat) (slot : Slot) (v : Byte) (s : State) : Host.Outcome State Fault Refusal :=
  if slot = .cmd then issueByte v s
  else
    match s.block.storeInput v slot with
    | some b => .next (s.withBlock b)
    | none => .fault (.busError .readOnlyRegister off)

/-- A host write (20_memory.md R63). An address outside the window is not decoded (R60; log entry 7). -/
def hostWrite (addr bits : Nat) (v : Byte) (s : State) : Host.Outcome State Fault Refusal :=
  if !selects s.kseBase addr bits then .next s
  else if bits ≠ 8 then .fault (.busError .accessWidth (addr - s.kseBase))
  else
    match slotOf (addr - s.kseBase) with
    | none => .fault (.busError .reservedOffset (addr - s.kseBase))
    | some slot => writeSlot (addr - s.kseBase) slot v s

/-- The engine's move (40_commands.md R127): it completes the command in progress. Where it is not enabled (BUSY = 0),
nothing happens. -/
def engineTurn (s : State) : Host.Outcome State Fault Refusal :=
  if s.block.busy then
    match s.block.pend with
    | some L => exec L.op s
    | none => .next s
  else .next s

/-- Reset (70_reset_and_hazards.md R280): the whole of the spec's state takes its reset value. The platform's placement of
the window and what lies outside the block stay. -/
def platformReset (s : State) : Host.Outcome State Fault Refusal := .next (s.withBlock Block.reset)

/-- One action of a host or of the engine. -/
def act (a : Action) (s : State) : Host.Outcome State Fault Refusal :=
  match a with
  | .read addr bits => hostRead addr bits s
  | .write addr bits v => hostWrite addr bits v s
  | .engine => engineTurn s

/-- One entry of the total order of 20_memory.md R72; reset overrides the action of its step (60_exceptions.md R255; log
entry 15). -/
def handle (e : Event) (s : State) : Host.Outcome State Fault Refusal :=
  match e with
  | .act a => act a s
  | .reset _ => platformReset s

end Sys2Proof.Machine
end

