-- ==== Sys2Proof/Machine/Step.lean ====
section
/-! DEFINITION. One step, and how a command byte is put where the next step takes it. -/

namespace Sys2Proof.Machine

/-- The state with the first entry of its schedule taken off. -/
def State.popped (s : State) : State := { s with schedule := s.schedule.tail }

/-- The first entry of the schedule happens. When nothing is scheduled any more the engine moves, so that a command in
progress completes (weak fairness, 40_commands.md R129; log entry 17), and otherwise the block is idle
(60_exceptions.md R267). -/
def step (s : State) : Host.Outcome State Fault Refusal :=
  match s.schedule with
  | [] => engineTurn s
  | e :: _ => handle e s.popped

/-- `s` with no command in progress: the CMD write of the next step is then not ignored (40_commands.md R126). Where no
command is in progress nothing changes. -/
def State.withNoCommand (s : State) : State :=
  if s.block.busy then s.withBlock { s.block with status := statusIdle, pend := none } else s

/-- `s` with the host's write of a command byte to CMD as the very next step: the block fetches no instruction
(10_state.md R22), and this write is how a command comes to run (log entry 3). -/
def State.withFetchWord (s : State) (nbits w : Nat) : State :=
  { s.withNoCommand with
    schedule := .act (.write (s.kseBase + Slot.cmd.offset) 8 (tableByte nbits w)) :: s.schedule }

end Sys2Proof.Machine
end

