-- ==== Sys2Proof/Machine/HostProgram.lean ====
section
/-! DEFINITION. The notation for host programs (30_encoding.md R95, R96) and the host that runs one. The host is not part
of the block: its control flow is its own (R97), and its accesses are the ones of Machine/Bus.lean. -/

namespace Sys2Proof.Machine

/-- The register names that stand for offsets (30_encoding.md R95). -/
def offCmd : Nat := 0x000
def offStatus : Nat := 0x001
def offKeylen : Nat := 0x002
def offResultCount : Nat := 0x003
def offShift : Nat := 0x004
def offOperand : Nat := 0x008
def offPrimResult : Nat := 0x010
def offKey : Nat := 0x020
def offSubkey : Nat := 0x100
def offRoundkey : Nat := 0x300

/-- `RD base+0 -> x_0` up to `RD base+(n-1) -> x_(n-1)`, in ascending order (30_encoding.md R96). -/
def readRun (base n x : Nat) : List HostForm := (List.range n).map fun k => .rd (base + k) ⟨x, k⟩

/-- The expansions of 30_encoding.md R96; the order inside each is part of it. -/
def expandPseudo : HostPseudo → List HostForm
  | .issue op => [.wr offCmd op]
  | .poll l s => [.label l, .rd offStatus s, .bnz s 0x01 l]
  | .run op l s => [.wr offCmd op, .label l, .rd offStatus s, .bnz s 0x01 l]
  | .wrKey bytes =>
    (List.range bytes.length).map (fun j => .wr (offKey + j) (bytes.getD j 0)) ++
      [.wr offKeylen (BitVec.ofNat 8 bytes.length)]
  | .wrOp v => (List.range 8).map fun k => .wr (offOperand + k) (beByte v k)
  | .rdSub j x => readRun (offSubkey + 8 * j) 8 x
  | .rdRk r x => readRun (offRoundkey + 16 * r) 16 x
  | .rdPrim x => readRun offPrimResult 8 x

/-- A host that runs a program: where it is, and the bytes it has read. -/
structure HostAgent where
  program : List HostForm
  pos : Nat
  vars : List (HostVar × Byte)
  deriving DecidableEq, Repr

/-- A byte of one of the host's values; one it has never read is 0 (log entry 18). -/
def HostAgent.value (h : HostAgent) (x : HostVar) : Byte :=
  match h.vars.find? fun p => p.1 == x with
  | some p => p.2
  | none => 0

/-- `be(x_0, ..., x_7)`, the value RDSUB and RDPRIM give (30_encoding.md R96). -/
def HostAgent.value64 (h : HostAgent) (x : Nat) : Reg64 :=
  beBits 64 ((List.range 8).map fun k => h.value ⟨x, k⟩)

/-- The host at the next form of its program. -/
def HostAgent.advance (h : HostAgent) : HostAgent := { h with pos := h.pos + 1 }

/-- The host with a byte it has read. -/
def HostAgent.receive (h : HostAgent) (x : HostVar) (v : Byte) : HostAgent := { h with vars := (x, v) :: h.vars }

/-- The host at a label of its program; past the program's end where the label is not placed (log entry 18). -/
def HostAgent.jump (h : HostAgent) (l : Nat) : HostAgent := { h with pos := h.program.findIdx fun f => f == .label l }

/-- A host and the instance it uses. -/
structure System where
  host : HostAgent
  machine : State
  deriving DecidableEq, Repr

/-- What the host holds after its access to the block. -/
def System.afterAccess (host : State → HostAgent) :
    Host.Outcome State Fault Refusal → Host.Outcome System Fault Refusal
  | .next s => .next ⟨host s, s⟩
  | .fault r => .fault r
  | .refused r => .refused r

/-- The host with the byte that its read has just been given, if it was given one. -/
def HostAgent.afterRead (h : HostAgent) (x : HostVar) (before after : State) : HostAgent :=
  if after.reads.length = before.reads.length then h.advance
  else
    match after.reads with
    | [] => h.advance
    | (_, v) :: _ => (h.receive x v).advance

/-- The host runs the next form of its program (30_encoding.md R95), one bus transaction at the most; at the program's end
it does nothing. -/
def System.hostTurn (y : System) : Host.Outcome System Fault Refusal :=
  match y.host.program[y.host.pos]? with
  | none => .next y
  | some (.wr off v) =>
    System.afterAccess (fun _ => y.host.advance) (hostWrite (y.machine.kseBase + off) 8 v y.machine)
  | some (.rd off x) =>
    System.afterAccess (fun s => y.host.afterRead x y.machine s) (hostRead (y.machine.kseBase + off) 8 y.machine)
  | some (.label _) => .next { y with host := y.host.advance }
  | some (.bnz x m l) =>
    if y.host.value x &&& m ≠ 0 then .next { y with host := y.host.jump l }
    else .next { y with host := y.host.advance }

/-- The engine, or the platform's reset, moves beside the host (60_exceptions.md R268). -/
def System.blockTurn (y : System) : Host.Outcome System Fault Refusal :=
  System.afterAccess (fun _ => y.host) (step y.machine)

end Sys2Proof.Machine
end

