-- ==== Sys2Proof/Machine/Platform.lean ====
section
/-! DEFINITION. Several instances side by side (60_exceptions.md R265; 00_scope.md R6, `KSE_INSTANCES`). -/

namespace Sys2Proof.Machine

/-- The instances of a platform; their count, KSE_INSTANCES, is open. Log entry 16. -/
structure Platform where
  instances : List State
  deriving DecidableEq, Repr

/-- All instances start at reset (60_exceptions.md R265), each window at its own base, with its own schedule. Instance `k`
draws its unspecified bytes (20_memory.md R64) from stream `k`: the spec gives no law between the bytes of two instances,
and neither does the model. The numbering is the model's choice: log entries 16 and 24. -/
def Platform.reset (placed : List (Nat × List Event)) : Platform where
  instances := placed.mapIdx fun k p => { State.reset with kseBase := p.1, schedule := p.2, stream := k }

/-- The windows do not overlap: distinct instances lie at distinct places (60_exceptions.md R265). -/
def Platform.windowsApart (p : Platform) : Prop :=
  p.instances.Pairwise fun s t => s.kseBase + windowSize ≤ t.kseBase ∨ t.kseBase + windowSize ≤ s.kseBase

/-- Instance `k` takes its step; where there is no instance `k`, nothing happens. A fault stops the run. -/
def Platform.stepInstance (p : Platform) (k : Nat) : Host.Outcome Platform Fault Refusal :=
  match p.instances[k]? with
  | none => .next p
  | some s =>
    match step s with
    | .next s' => .next { p with instances := p.instances.set k s' }
    | .fault r => .fault r
    | .refused r => .refused r

end Sys2Proof.Machine
end

