-- ==== Sys2Proof/Safety.lean ====
section
/-! DEFINITION. The terms claims are stated in: the invariant of a block, and the hazards a host must avoid. -/

namespace Sys2Proof.Machine

/-- No result register holds anything (40_commands.md R122). -/
structure Block.NoResults (b : Block) : Prop where
  count : b.resultCount = 0
  prim : b.primResult = 0
  subkeys : ∀ j : Fin 48, b.subkey[j] = 0
  roundkeys : ∀ r : Fin 15, b.roundkey[r] = 0

/-- What a completed command leaves in the result registers (10_state.md R27, R30, R32, R33; 40_commands.md R127): its
RESULT_COUNT, its own results within their widths, and 0 in every entry it does not write. -/
def Block.ResultShape (b : Block) : Instr → Prop
  | .desKs =>
    b.resultCount = 16 ∧ b.primResult = 0 ∧ (∀ r : Fin 15, b.roundkey[r] = 0) ∧
      (∀ j : Fin 48, b.subkey[j].toNat < 2 ^ 48) ∧ ∀ j : Fin 48, 16 ≤ j.val → b.subkey[j] = 0
  | .tdesKs =>
    b.resultCount = 48 ∧ b.primResult = 0 ∧ (∀ r : Fin 15, b.roundkey[r] = 0) ∧
      ∀ j : Fin 48, b.subkey[j].toNat < 2 ^ 48
  | .aesKe =>
    (b.resultCount = 11 ∨ b.resultCount = 13 ∨ b.resultCount = 15) ∧ b.primResult = 0 ∧
      (∀ j : Fin 48, b.subkey[j] = 0) ∧ ∀ r : Fin 15, b.resultCount.toNat ≤ r.val → b.roundkey[r] = 0
  | .permutePc1 =>
    b.resultCount = 1 ∧ (∀ j : Fin 48, b.subkey[j] = 0) ∧ (∀ r : Fin 15, b.roundkey[r] = 0) ∧
      b.primResult.toNat < 2 ^ 56
  | .permutePc2 =>
    b.resultCount = 1 ∧ (∀ j : Fin 48, b.subkey[j] = 0) ∧ (∀ r : Fin 15, b.roundkey[r] = 0) ∧
      b.primResult.toNat < 2 ^ 48
  | .rotl28 =>
    b.resultCount = 1 ∧ (∀ j : Fin 48, b.subkey[j] = 0) ∧ (∀ r : Fin 15, b.roundkey[r] = 0) ∧
      b.primResult.toNat < 2 ^ 28

/-- What STATUS says why the last issue failed agrees with the byte in CMD (60_exceptions.md R250). -/
def Block.ErrorCause (b : Block) : ErrCode → Prop
  | .noError => True
  | .invalidKeyLength => ∃ i ∈ [Instr.desKs, .tdesKs, .aesKe], b.cmd = encodeByte i
  | .invalidCommand => commandOf b.cmd = none
  | .invalidOperand => ∃ i ∈ [Instr.permutePc2, .rotl28], b.cmd = encodeByte i

/-- The invariant of a block, kept by every step: STATUS is one of its six values; PEND exists exactly while BUSY and was
accepted; there are results only after DONE, of the shape of the command in CMD; an error fits the byte in CMD. -/
structure Block.Inv (b : Block) : Prop where
  /-- 10_state.md R25 -/
  status_legal : b.status ∈ legalStatuses
  /-- 10_state.md R40 -/
  pend_iff_busy : b.pend.isSome = b.busy
  /-- 40_commands.md R124, 10_state.md R23 -/
  pend_valid : ∀ L, b.pend = some L → validateOp L.op L = .noError ∧ b.cmd = encodeByte L.op
  /-- 10_state.md R25, R45 -/
  idle_cmd : b.status = statusIdle → b.cmd = 0
  /-- 40_commands.md R122, R125 -/
  results_only_done : b.status ≠ statusDone → b.NoResults
  /-- 40_commands.md R127 -/
  done_shape : b.status = statusDone → ∃ i, b.cmd = encodeByte i ∧ b.ResultShape i
  /-- 60_exceptions.md R250 -/
  error_cause : ∀ code, b.status = statusError code → b.ErrorCause code

/-- A host access that a host of this block must not make: a bus error (20_memory.md R66), whatever the state. -/
def Action.isBusError (base : Nat) : Action → Bool
  | .read addr bits =>
    selects base addr bits && (bits != 8 || (slotOf (addr - base)).isNone)
  | .write addr bits _ =>
    selects base addr bits &&
      (bits != 8 ||
        match slotOf (addr - base) with
        | none => true
        | some slot => slot == .status || slot.isResult)
  | .engine => false

/-- The event is a bus error; a reset never is (60_exceptions.md R255). -/
def Event.isBusError (base : Nat) : Event → Bool
  | .act a => a.isBusError base
  | .reset _ => false

/-- The events of a host alone: neither the engine nor reset moves. -/
def Event.isHostAccess : Event → Bool
  | .act (.read _ _) => true
  | .act (.write _ _ _) => true
  | .act .engine => false
  | .reset _ => false

/-- `s` with one more event in front of its schedule: the next step takes it. -/
def State.upcoming (s : State) (e : Event) : State := { s with schedule := e :: s.schedule }

/-- `k` steps of the machine from `s`, stopping at the first fault or refusal (Host/Core.lean's run, of this machine). -/
def runSteps (k : Nat) (s : State) : Host.Outcome State Fault Refusal := Sys2Proof.core.run k s

/-- `MemWrite(off, 1, v)` is the next step (20_memory.md R61). -/
def State.hostWrites (s : State) (off : Nat) (v : Byte) : State := s.upcoming (.act (.write (s.kseBase + off) 8 v))

/-- `MemRead(off, 1)` is the next step (20_memory.md R61). -/
def State.hostReads (s : State) (off : Nat) : State := s.upcoming (.act (.read (s.kseBase + off) 8))

/-- The `n` byte reads from window offset `off` on, in ascending order, leave the block as it is and return bytes that put
together big-endian are `v` (70_reset_and_hazards.md R285). -/
def State.ReadsGive {w : Nat} (s : State) (off n : Nat) (v : BitVec w) : Prop :=
  ∃ t, runSteps n { s with schedule := (List.range n).map fun k => .act (.read (s.kseBase + (off + k)) 8) } = .next t ∧
    t.block = s.block ∧
    ∃ bytes : List Byte, bytes.length = n ∧ beBits w bytes = v ∧
      t.reads = ((List.range n).zipWith (fun k b => (off + k, b)) bytes).reverse ++ s.reads

/-- The engine moves in the next step (40_commands.md R127). -/
def State.engineMoves (s : State) : State := s.upcoming (.act .engine)

/-- The reserved offsets of the window (20_memory.md R66). -/
def reservedOffset (off : Nat) : Prop :=
  (0x005 ≤ off ∧ off ≤ 0x007) ∨ (0x018 ≤ off ∧ off ≤ 0x01F) ∨ (0x040 ≤ off ∧ off ≤ 0x0FF) ∨
    (0x280 ≤ off ∧ off ≤ 0x2FF) ∨ (0x3F0 ≤ off ∧ off ≤ 0x3FF)

/-- The offsets of the result registers RESULT_COUNT, PRIM_RESULT, SUBKEY and ROUNDKEY (20_memory.md R64, R70). -/
def resultOffset (off : Nat) : Prop :=
  off = 0x003 ∨ (0x010 ≤ off ∧ off ≤ 0x017) ∨ (0x100 ≤ off ∧ off ≤ 0x27F) ∨ (0x300 ≤ off ∧ off ≤ 0x3EF)

/-- The offsets of the input registers KEYLEN, SHIFT, OPERAND and KEY (20_memory.md R63, R70). -/
def inputOffset (off : Nat) : Prop :=
  off = 0x002 ∨ off = 0x004 ∨ (0x008 ≤ off ∧ off ≤ 0x00F) ∨ (0x020 ≤ off ∧ off ≤ 0x03F)

/-- Two blocks hold the same results. -/
def Block.sameResults (b c : Block) : Prop :=
  b.resultCount = c.resultCount ∧ b.primResult = c.primResult ∧ b.subkey = c.subkey ∧ b.roundkey = c.roundkey

/-- The result registers hold exactly these results: every entry that they do not give is 0 (40_commands.md R122, R127). -/
def Block.HoldsResults (b : Block) (r : Results) : Prop :=
  b.resultCount = r.count ∧ b.primResult = r.prim.getD 0 ∧
    (∀ j : Fin 48, b.subkey[j] = (r.subkeys.getD j 0).setWidth 64) ∧ ∀ k : Fin 15, b.roundkey[k] = r.roundkeys.getD k 0

/-- Two blocks hold the same inputs. -/
def Block.sameInputs (b c : Block) : Prop :=
  b.keylen = c.keylen ∧ b.shift = c.shift ∧ b.operand = c.operand ∧ b.key = c.key

/-- Everything outside the block is the same: the window's place, the schedule, the host's reads, the stream of unspecified
bytes and the draws from it. -/
def State.sameWorld (s t : State) : Prop :=
  s.kseBase = t.kseBase ∧ s.schedule = t.schedule ∧ s.reads = t.reads ∧ s.stream = t.stream ∧ s.draws = t.draws

/-- A run is safe for the host if no event of its schedule is a bus error (20_memory.md R66). -/
def State.scheduleSafe (s : State) : Bool := s.schedule.all fun e => !e.isBusError s.kseBase

end Sys2Proof.Machine
end

