-- ==== Sys2Proof/Certificates/Slice0/Obligations.lean ====
section
/-! DEFINITION. The statements for the provers. Each docstring names the rule of spec/ it formalises, or what it rests on. -/

open Sys2Proof Sys2Proof.Machine

/-! ## Encoding -/

/-- 30_encoding.md R94: one byte, whatever follows it, decides what a command is; and decoding gives back what was
encoded. -/
def Obligations.EveryCommandIsOneByte : Prop :=
  (∀ i, (encode i).length = 1) ∧
  (∀ i rest, decode (encode i ++ rest) = .ok (i, rest)) ∧
  (∀ v rest, decode (v :: rest) = (decodeByte v).map fun i => (i, rest))

/-- 30_encoding.md R91: the six command bytes, bit by bit, and no other byte. -/
def Obligations.OpcodeMapIsExact : Prop :=
  commandOf 0b00000001 = some .desKs ∧ commandOf 0b00000010 = some .tdesKs ∧ commandOf 0b00000011 = some .aesKe ∧
  commandOf 0b00000100 = some .permutePc1 ∧ commandOf 0b00000101 = some .permutePc2 ∧
  commandOf 0b00000110 = some .rotl28 ∧
  ∀ v : Byte, v ∉ [0b00000001, 0b00000010, 0b00000011, 0b00000100, 0b00000101, 0b00000110] → commandOf v = none

/-- 30_encoding.md R92: a byte with OP = 0x0, OP = 0x7..0xF or RSVD ≠ 0 (250 of the 256) is accepted as an issue, is stored
in CMD, clears the results and fails with INVALID_COMMAND. -/
def Obligations.IllegalByteFailsTheIssue : Prop :=
  let illegal (v : Byte) : Bool := (opField v).toNat == 0 || 7 ≤ (opField v).toNat || rsvdField v != 0
  ((List.range 256).filter fun n => illegal (BitVec.ofNat 8 n)).length = 250 ∧
  ∀ (s : State) (v : Byte), illegal v = true → s.block.busy = false →
    ∃ t, step (s.hostWrites 0x000 v) = .next t ∧ t.sameWorld s ∧ t.block.cmd = v ∧ t.block.NoResults ∧
      t.block.status = 0x24 ∧ errCodeField t.block.status = 2 ∧ t.block.pend = none ∧ t.block.sameInputs s.block

/-! ## Reset and the invariant -/

/-- 10_state.md R45: what reset leaves in the spec's state. -/
def Obligations.ResetValues : Prop :=
  State.reset.block.cmd = 0x00 ∧ State.reset.block.status = 0x00 ∧ State.reset.block.keylen = 0x00 ∧
  State.reset.block.resultCount = 0x00 ∧ State.reset.block.shift = 0x00 ∧ State.reset.block.operand = 0 ∧
  State.reset.block.primResult = 0 ∧ (∀ j : Fin 32, State.reset.block.key[j] = 0x00) ∧
  (∀ j : Fin 48, State.reset.block.subkey[j] = 0) ∧ (∀ r : Fin 15, State.reset.block.roundkey[r] = 0) ∧
  State.reset.block.pend = none

/-- 70_reset_and_hazards.md section 1: in any state, and whatever else would have happened in the same step, reset is one step
that gives every register and PEND the reset value; a command in progress is abandoned. That what lies outside the block
stays is the model's choice: an overridden host read gets no answer (log entry 15), and the host keeps the bytes it was
given (log entry 13), as the window keeps its place (log entry 6). -/
def Obligations.ResetOverridesEverything : Prop :=
  ∀ (s : State) (overridden : Option Action),
    ∃ t, step (s.upcoming (.reset overridden)) = .next t ∧ t.block = State.reset.block ∧ t.block.pend = none ∧
      t.block.NoResults ∧ t.sameWorld s

/-- Right after a reset each command is accepted as an issue at once, and the all-zero inputs decide how it goes: the key
commands fail on KEYLEN = 0, ROTL28 fails on SHIFT = 0, the two permutations are valid. -/
def Obligations.IssueRightAfterReset : Prop :=
  ∀ (s : State) (i : Instr), s.block = State.reset.block →
    ∃ t, exec i s = .next t ∧ t.block.cmd = encodeByte i ∧
      t.block.status =
        (if i = .desKs ∨ i = .tdesKs ∨ i = .aesKe then 0x14 else if i = .rotl28 then 0x34 else 0x01)

/-- The invariant holds at reset. -/
def Obligations.ResetMeetsTheInvariant : Prop := State.reset.block.Inv

/-- Every step keeps the invariant of the block, from every state that has it. -/
def Obligations.EveryStepKeepsTheInvariant : Prop :=
  ∀ s t : State, s.block.Inv → step s = .next t → t.block.Inv

/-- 10_state.md R25: STATUS only ever holds one of its six values, each with its meaning; no two of BUSY, DONE and ERROR are
set, ERRCODE is nonzero exactly when ERROR is set: at reset, and after every step from a state of the invariant. -/
def Obligations.StatusIsOneOfSixValues : Prop :=
  let ok (b : Block) : Prop :=
    (b.status = 0x00 ∨ b.status = 0x01 ∨ b.status = 0x02 ∨ b.status = 0x14 ∨ b.status = 0x24 ∨ b.status = 0x34) ∧
    ¬(busyFlag b.status ∧ doneFlag b.status) ∧ ¬(busyFlag b.status ∧ errorFlag b.status) ∧
    ¬(doneFlag b.status ∧ errorFlag b.status) ∧ (errCodeField b.status ≠ 0 ↔ errorFlag b.status = true) ∧
    (b.status = 0x00 → b.cmd = 0x00 ∧ b.NoResults) ∧ (b.status = 0x01 ↔ b.pend.isSome = true) ∧
    (b.status = 0x02 → ∃ i, b.cmd = encodeByte i ∧ b.ResultShape i) ∧
    (b.status = 0x14 → (b.cmd = 0x01 ∨ b.cmd = 0x02 ∨ b.cmd = 0x03) ∧ b.NoResults) ∧
    (b.status = 0x24 → commandOf b.cmd = none ∧ b.NoResults) ∧
    (b.status = 0x34 → (b.cmd = 0x05 ∨ b.cmd = 0x06) ∧ b.NoResults)
  ok State.reset.block ∧ ∀ s t : State, s.block.Inv → step s = .next t → ok t.block

/-! ## The window -/

/-- 20_memory.md section 3: every register byte has its own offset in the window, and an offset has no register byte
exactly when it is reserved or outside the window. -/
def Obligations.WindowMapIsExact : Prop :=
  (∀ (off : Nat) (r : Slot), slotOf off = some r ↔ r.offset = off) ∧
  (∀ off : Nat, slotOf off = none ↔ reservedOffset off ∨ 0x400 ≤ off) ∧
  ∀ off : Nat, ((∃ r, slotOf off = some r ∧ r.isResult = true) ↔ resultOffset off)

/-- 10_state.md section 3 and 20_memory.md section 2: the bytes of every register, big-endian, at their offsets. -/
def Obligations.RegisterBytesAreBigEndian : Prop :=
  ∀ b : Block,
    b.readOffset 0x000 = some b.cmd ∧ b.readOffset 0x001 = some b.status ∧ b.readOffset 0x002 = some b.keylen ∧
    b.readOffset 0x003 = some b.resultCount ∧ b.readOffset 0x004 = some b.shift ∧
    (∀ k : Fin 8, b.readOffset (0x008 + k) = some ((b.operand >>> (56 - 8 * k.val)).setWidth 8)) ∧
    (∀ k : Fin 8, b.readOffset (0x010 + k) = some ((b.primResult >>> (56 - 8 * k.val)).setWidth 8)) ∧
    (∀ j : Fin 32, b.readOffset (0x020 + j) = some b.key[j]) ∧
    (∀ (j : Fin 48) (k : Fin 8),
      b.readOffset (0x100 + 8 * j + k) = some ((b.subkey[j] >>> (56 - 8 * k.val)).setWidth 8)) ∧
    (∀ (r : Fin 15) (k : Fin 16),
      b.readOffset (0x300 + 16 * r + k) = some ((b.roundkey[r] >>> (120 - 8 * k.val)).setWidth 8)) ∧
    ∀ j : Fin 48, b.subkey[j].toNat < 2 ^ 48 →
      b.readOffset (0x100 + 8 * j) = some 0x00 ∧ b.readOffset (0x101 + 8 * j) = some 0x00

/-- 20_memory.md R62 and R64: a read of a mapped offset returns the register's byte and changes no state; while BUSY = 1 a
read of a result register returns the next free byte and changes no state of the block; a read of an offset that is not
mapped raises BusError. -/
def Obligations.HostReadReturnsTheRegisterByte : Prop :=
  ∀ (s : State) (off : Nat), off < 0x400 →
    (∀ v, s.block.readOffset off = some v → ¬(s.block.busy = true ∧ resultOffset off) →
      ∃ t, step (s.hostReads off) = .next t ∧ t.reads = (off, v) :: s.reads ∧ t.block = s.block ∧
        t.kseBase = s.kseBase ∧ t.schedule = s.schedule ∧ t.stream = s.stream ∧ t.draws = s.draws) ∧
    (s.block.busy = true → resultOffset off →
      ∃ t, step (s.hostReads off) = .next t ∧ t.reads = (off, Config.freeByte s.stream s.draws) :: s.reads ∧
        t.block = s.block ∧ t.kseBase = s.kseBase ∧ t.schedule = s.schedule ∧ t.stream = s.stream ∧
        t.draws = s.draws + 1) ∧
    (s.block.readOffset off = none → ∃ cause, step (s.hostReads off) = .fault (.busError cause off))

/-- 20_memory.md R63: a write acts by its destination: CMD issues (and is ignored while BUSY), an input register's byte is
stored and nothing else changes, any other destination raises BusError. -/
def Obligations.HostWriteActsByItsDestination : Prop :=
  ∀ (s : State) (v : Byte),
    (s.block.busy = true → step (s.hostWrites 0x000 v) = .next s) ∧
    (s.block.busy = false → ∀ i, commandOf v = some i → step (s.hostWrites 0x000 v) = exec i s) ∧
    (s.block.busy = false → commandOf v = none →
      step (s.hostWrites 0x000 v) = .next (s.withBlock (s.block.errorEntry v .invalidCommand))) ∧
    step (s.hostWrites 0x002 v) = .next (s.withBlock { s.block with keylen := v }) ∧
    step (s.hostWrites 0x004 v) = .next (s.withBlock { s.block with shift := v }) ∧
    (∀ k : Fin 8, ∃ x : Reg64,
      step (s.hostWrites (0x008 + k) v) = .next (s.withBlock { s.block with operand := x }) ∧
      ∀ n : Nat, x.getLsbD n =
        if 56 - 8 * k.val ≤ n ∧ n < 64 - 8 * k.val then v.getLsbD (n - (56 - 8 * k.val))
        else s.block.operand.getLsbD n) ∧
    (∀ j : Fin 32, ∃ key : Vector Byte 32,
      step (s.hostWrites (0x020 + j) v) = .next (s.withBlock { s.block with key := key }) ∧
      ∀ j' : Fin 32, key[j'] = if j' = j then v else s.block.key[j']) ∧
    ∀ off : Nat, off < 0x400 → off ≠ 0x000 → ¬inputOffset off →
      ∃ cause, step (s.hostWrites off v) = .fault (.busError cause off)

/-- 20_memory.md R66: the three kinds of access that raise BusError, on a read and on a write, with the offset. -/
def Obligations.ForbiddenAccessRaisesBusError : Prop :=
  ∀ (s : State) (v : Byte) (off : Nat),
    (reservedOffset off →
      step (s.hostReads off) = .fault (.busError .reservedOffset off) ∧
      step (s.hostWrites off v) = .fault (.busError .reservedOffset off)) ∧
    (off = 0x001 ∨ resultOffset off → step (s.hostWrites off v) = .fault (.busError .readOnlyRegister off)) ∧
    (off < 0x400 → ∀ bits, bits ≠ 8 →
      step (s.upcoming (.act (.read (s.kseBase + off) bits))) = .fault (.busError .accessWidth off) ∧
      step (s.upcoming (.act (.write (s.kseBase + off) bits v))) = .fault (.busError .accessWidth off))

/-- 20_memory.md section 1: a host address in the window selects the offset above the base. That a byte access anywhere else
is a step that gives no answer and changes nothing is the model's choice (log entry 7): the rule says that the block does
not decode it, and no more. -/
def Obligations.WindowIsSelectedByItsBase : Prop :=
  ∀ (s : State) (addr : Nat) (v : Byte),
    (s.kseBase ≤ addr → addr < s.kseBase + 0x400 →
      step (s.upcoming (.act (.read addr 8))) = step (s.hostReads (addr - s.kseBase)) ∧
      step (s.upcoming (.act (.write addr 8 v))) = step (s.hostWrites (addr - s.kseBase) v)) ∧
    (addr < s.kseBase ∨ s.kseBase + 0x400 ≤ addr →
      step (s.upcoming (.act (.read addr 8))) = .next s ∧ step (s.upcoming (.act (.write addr 8 v))) = .next s)

/-- A step never refuses, and it faults exactly when the host access due is one of the bus errors of 20_memory.md
section 2; commands, completions and resets never stop a run. That a wide access which begins below the window is the
block's (log entry 8) and that a byte access outside it is none of the bus errors (log entry 7) are the model's choices. -/
def Obligations.OnlyBusErrorsStopARun : Prop :=
  ∀ s : State, (∀ r, step s ≠ .refused r) ∧
    ((∃ f, step s = .fault f) ↔ ∃ e rest, s.schedule = e :: rest ∧ e.isBusError s.kseBase = true)

/-- 20_memory.md section 2: writing the same byte twice to an input register leaves the same state as writing it once. -/
def Obligations.RepeatedInputWriteIsIdempotent : Prop :=
  ∀ (s t : State) (off : Nat) (v : Byte), inputOffset off → step (s.hostWrites off v) = .next t →
    step (t.hostWrites off v) = .next t ∧ t.block.readOffset off = some v ∧
      ∀ off', off' ≠ off → t.block.readOffset off' = s.block.readOffset off'

/-! ## The life of a command -/

/-- 40_commands.md R121 and R122: the issue step, on every byte: ignored while BUSY; otherwise CMD holds the byte, the
results are cleared, and either STATUS holds the failure's code or the inputs are latched and the block is BUSY. -/
def Obligations.IssueStep : Prop :=
  ∀ (s : State) (v : Byte),
    (s.block.busy = true → step (s.hostWrites 0x000 v) = .next s) ∧
    (s.block.busy = false → ∀ i, ∃ t, step (s.hostWrites 0x000 v) = .next t ∧ t.sameWorld s ∧ t.block.cmd = v ∧
      t.block.NoResults ∧ t.block.sameInputs s.block ∧
      (validate v (s.block.latch i) ≠ .noError →
        t.block.status = 0x04 ||| ((validate v (s.block.latch i)).number.setWidth 8 <<< 4) ∧
        t.block.pend = none) ∧
      (validate v (s.block.latch i) = .noError →
        t.block.status = 0x01 ∧
        ∃ L, t.block.pend = some L ∧ encodeOp L.op = opField v ∧ L.keylen = s.block.keylen ∧ L.key = s.block.key ∧
          L.operand = s.block.operand ∧ L.shift = s.block.shift))

/-- 40_commands.md R123: the checks of validation in their order, and the code of the first that fails. -/
def Obligations.ValidationChecksInOrder : Prop :=
  ∀ (v : Byte) (L : Latched),
    validate v L =
      if 16 ≤ v.toNat ∨ v.toNat % 16 = 0 ∨ 7 ≤ v.toNat % 16 then .invalidCommand
      else if v = 0x01 ∧ L.keylen.toNat ≠ 8 then .invalidKeyLength
      else if v = 0x02 ∧ L.keylen.toNat ≠ 16 ∧ L.keylen.toNat ≠ 24 then .invalidKeyLength
      else if v = 0x03 ∧ L.keylen.toNat ≠ 16 ∧ L.keylen.toNat ≠ 24 ∧ L.keylen.toNat ≠ 32 then .invalidKeyLength
      else if v = 0x05 ∧ 2 ^ 56 ≤ L.operand.toNat then .invalidOperand
      else if v = 0x06 ∧ ((L.shift.toNat ≠ 1 ∧ L.shift.toNat ≠ 2) ∨ 2 ^ 28 ≤ L.operand.toNat) then .invalidOperand
      else .noError

/-- 40_commands.md R125: what a failing issue leaves, at once: STATUS is 0x14, 0x24 or 0x34 by its code, no results, PEND
none, CMD the byte; no engine step follows, and the very next read of STATUS returns the error. -/
def Obligations.FailingIssueIsSynchronous : Prop :=
  ∀ (s : State) (v : Byte) (i : Instr), s.block.busy = false → validate v (s.block.latch i) ≠ .noError →
    ∃ t, step (s.hostWrites 0x000 v) = .next t ∧
      t.block.status =
        (match validate v (s.block.latch i) with
        | .noError => 0x04
        | .invalidKeyLength => 0x14
        | .invalidCommand => 0x24
        | .invalidOperand => 0x34) ∧
      t.block.NoResults ∧ t.block.pend = none ∧ t.block.cmd = v ∧ t.block.busy = false ∧
      step t.engineMoves = .next t ∧ step (t.hostReads 0x001) = .next (t.respond 0x001 t.block.status)

/-- 40_commands.md R126: a CMD write while BUSY = 1 changes nothing. -/
def Obligations.CommandWriteWhileBusyIsIgnored : Prop :=
  ∀ (s : State) (v : Byte), s.block.busy = true → step (s.hostWrites 0x000 v) = .next s

/-- 40_commands.md R127: completion, of each of the six commands, as one step of the engine that is enabled exactly while
BUSY = 1; it is the step of the command in progress; it writes the command's results and leaves every other entry. -/
def Obligations.CompletionWritesTheResults : Prop :=
  ∀ s : State,
    (s.block.busy = false → step s.engineMoves = .next s) ∧
    ∀ L, s.block.busy = true → s.block.pend = some L →
      ∃ t, step s.engineMoves = .next t ∧ exec L.op s = .next t ∧ t.sameWorld s ∧ t.block.sameInputs s.block ∧
        t.block.cmd = s.block.cmd ∧ t.block.pend = none ∧ t.block.status = 0x02 ∧
        (match L.op with
        | .desKs =>
          t.block.resultCount = 16 ∧ t.block.primResult = s.block.primResult ∧ t.block.roundkey = s.block.roundkey ∧
          ∀ j : Fin 48, t.block.subkey[j] =
            if j.val < 16 then ((desKeySchedule (slice L.key.toList 0 8)).getD j 0).setWidth 64
            else s.block.subkey[j]
        | .tdesKs =>
          let (s1, s2, s3) := tripleDesKeySchedule (slice L.key.toList 0 L.keylen.toNat)
          t.block.resultCount = 48 ∧ t.block.primResult = s.block.primResult ∧ t.block.roundkey = s.block.roundkey ∧
          ∀ j : Fin 48, t.block.subkey[j] =
            ((if j.val < 16 then s1.getD j 0 else if j.val < 32 then s2.getD (j - 16) 0
              else s3.getD (j - 32) 0).setWidth 64)
        | .aesKe =>
          let rk := aesKeyExpansion (slice L.key.toList 0 L.keylen.toNat)
          t.block.resultCount.toNat = rk.length ∧ t.block.primResult = s.block.primResult ∧
          t.block.subkey = s.block.subkey ∧
          ∀ r : Fin 15, t.block.roundkey[r] = if r.val < rk.length then rk.getD r 0 else s.block.roundkey[r]
        | .permutePc1 =>
          t.block.resultCount = 1 ∧ t.block.subkey = s.block.subkey ∧ t.block.roundkey = s.block.roundkey ∧
          t.block.primResult = (bitPermute 56 L.operand pc1).setWidth 64
        | .permutePc2 =>
          t.block.resultCount = 1 ∧ t.block.subkey = s.block.subkey ∧ t.block.roundkey = s.block.roundkey ∧
          t.block.primResult = (bitPermute 48 (L.operand.setWidth 56) pc2).setWidth 64
        | .rotl28 =>
          t.block.resultCount = 1 ∧ t.block.subkey = s.block.subkey ∧ t.block.roundkey = s.block.roundkey ∧
          t.block.primResult = (rotateLeft28 (L.operand.setWidth 28) L.shift.toNat).setWidth 64)

/-- 40_commands.md R128: two blocks with the same latched inputs end with the same results, whatever the host does to each
during BUSY and however long it takes (host accesses that raise no BusError, then the engine; accesses that do raise one
are left out because the model's run ends there, log entry 20). -/
def Obligations.ResultsDependOnTheLatchAlone : Prop :=
  ∀ (s1 s2 : State) (L : Latched) (evs1 evs2 : List Event),
    s1.block.Inv → s2.block.Inv → s1.block.pend = some L → s2.block.pend = some L →
    (∀ e ∈ evs1, e.isHostAccess = true ∧ e.isBusError s1.kseBase = false) →
    (∀ e ∈ evs2, e.isHostAccess = true ∧ e.isBusError s2.kseBase = false) →
    ∃ t1 t2,
      runSteps (evs1.length + 1) { s1 with schedule := evs1 ++ [.act .engine] } = .next t1 ∧
      runSteps (evs2.length + 1) { s2 with schedule := evs2 ++ [.act .engine] } = .next t2 ∧
      t1.block.sameResults t2.block ∧ t1.block.status = 0x02 ∧ t2.block.status = 0x02

/-- 40_commands.md section R129's "Only reset ends BUSY any other way": a step from a BUSY block leaves the command in
progress with nothing of it changed, or completes it, or is a reset. -/
def Obligations.BusyEndsOnlyByCompletionOrReset : Prop :=
  ∀ (s t : State) (L : Latched), s.block.Inv → s.block.pend = some L → step s = .next t →
    (t.block.busy = true ∧ t.block.pend = some L ∧ t.block.cmd = s.block.cmd ∧ t.block.sameResults s.block) ∨
    (exec L.op s = .next (s.withBlock t.block) ∧ t.block.status = 0x02) ∨
    t.block = State.reset.block

/-- 40_commands.md's progress, with the model's finite schedule standing for weak fairness (log entry 17, the model's choice):
a command that is BUSY is done, or reset, or the run has met a bus error, at the latest one step after the schedule is
used up; when it is done the result registers hold exactly the results of its latched inputs. -/
def Obligations.EveryBusyCommandFinishes : Prop :=
  ∀ (s : State) (L : Latched), s.block.Inv → s.block.pend = some L →
    ∃ k ≤ s.schedule.length + 1,
      (∃ f, runSteps k s = .fault f) ∨
      ∃ t, runSteps k s = .next t ∧
        (t.block = State.reset.block ∨
          (t.block.status = 0x02 ∧ t.block.cmd = encodeByte L.op ∧ t.block.HoldsResults (computeOp L.op L)))

/-- 40_commands.md section R129, no bound on the latency: for every number of host reads there is a run in which the
command is still in progress after all of them and completes in the step after. -/
def Obligations.LatencyIsUnbounded : Prop :=
  ∀ (s : State) (L : Latched) (n : Nat), s.block.busy = true → s.block.pend = some L →
    let polls := List.replicate n (Event.act (.read (s.kseBase + 0x001) 8))
    ∃ t u,
      runSteps n { s with schedule := polls ++ [.act .engine] } = .next t ∧ t.block = s.block ∧
      t.reads = List.replicate n (0x001, s.block.status) ++ s.reads ∧
      runSteps (n + 1) { s with schedule := polls ++ [.act .engine] } = .next u ∧ u.block.status = 0x02

/-- 70_reset_and_hazards.md R287: a write to an input register during BUSY does not reach the running command, whose
completion writes what it would have written, and it takes effect for the next issue. -/
def Obligations.InputsMayBeStagedDuringBusy : Prop :=
  ∀ (s : State) (L : Latched) (off : Nat) (v : Byte) (i : Instr), s.block.busy = true → s.block.pend = some L →
    inputOffset off →
    ∃ t u w, step (s.hostWrites off v) = .next t ∧ t.block.busy = true ∧ t.block.pend = some L ∧
      t.block.readOffset off = some v ∧
      exec L.op s = .next w ∧ exec L.op t = .next u ∧ u.block.sameResults w.block ∧
      u.block.status = w.block.status ∧ u.block.cmd = w.block.cmd ∧
      u.block.latch i = t.block.latch i

/-- 60_exceptions.md section 4: an error stays in STATUS until the next issue or a reset: after a step from an error state
STATUS is the same, unless the step was a write to CMD or a reset. -/
def Obligations.ErrorStaysUntilIssueOrReset : Prop :=
  ∀ s t : State, s.block.Inv → errorFlag s.block.status = true → step s = .next t →
    t.block.status = s.block.status ∨
    (∃ v rest, s.schedule = .act (.write s.kseBase 8 v) :: rest ∧ t.block.cmd = v) ∨
    ∃ a rest, s.schedule = .reset a :: rest

/-- 60_exceptions.md section 6 (idle registers keep their values) and 20_memory.md section 2: what can change each
register, in any step that is not a reset: an input register only the host's own write to it, CMD only an accepted issue,
STATUS and the results only an accepted issue or a completion; and no step moves the window. -/
def Obligations.EachRegisterHasItsOwnCause : Prop :=
  ∀ s t : State, step s = .next t →
    t.kseBase = s.kseBase ∧
    ((∃ a rest, s.schedule = .reset a :: rest) ∨
      let written (off : Nat) (v : Byte) : Prop := ∃ rest, s.schedule = .act (.write (s.kseBase + off) 8 v) :: rest
      let issued : Prop := s.block.busy = false ∧ ∃ v, written 0x000 v ∧ t.block.cmd = v
      let completed : Prop := s.block.busy = true ∧ t.block.status = 0x02 ∧ ∃ L, s.block.pend = some L
      (t.block.cmd ≠ s.block.cmd → issued) ∧
      (t.block.keylen ≠ s.block.keylen → written 0x002 t.block.keylen) ∧
      (t.block.shift ≠ s.block.shift → written 0x004 t.block.shift) ∧
      (t.block.operand ≠ s.block.operand → ∃ (k : Fin 8) (v : Byte), written (0x008 + k) v) ∧
      (∀ j : Fin 32, t.block.key[j] ≠ s.block.key[j] → written (0x020 + j) t.block.key[j]) ∧
      (t.block.status ≠ s.block.status → issued ∨ completed) ∧
      (¬t.block.sameResults s.block → issued ∨ completed) ∧
      (t.block.pend ≠ s.block.pend → issued ∨ completed))

/-- The frame of the six commands: a step of any of them leaves the inputs, the window's place, the schedule, the reads, the
stream and the draws; every window byte outside CMD, STATUS and the result registers reads as before; a completion leaves
CMD too. That exec of a command that is not the one in progress leaves everything is the model's choice of what exec means
(log entry 10), and so it is at BUSY without PEND, which no run reaches (log entry 11); no step calls it so. -/
def Obligations.CommandFrame : Prop :=
  ∀ (i : Instr) (s t : State), exec i s = .next t →
    t.block.sameInputs s.block ∧ t.sameWorld s ∧
    (∀ off, off ≠ 0x000 → off ≠ 0x001 → ¬resultOffset off → t.block.readOffset off = s.block.readOffset off) ∧
    (s.block.busy = true → t.block.cmd = s.block.cmd) ∧
    (s.block.busy = true → (∀ L, s.block.pend = some L → L.op ≠ i) → t = s)

/-- A step runs the command: at a CMD write of a command's byte with BUSY = 0 it is that command's step, and at the
engine's move it is the step of the command in progress; both with the event taken off the schedule. That the engine moves
when nothing is scheduled, the last clause, is the model's choice (log entry 17); 40_commands.md asks for weak fairness. -/
def Obligations.StepRunsTheDecodedCommand : Prop :=
  ∀ s : State,
    (∀ v i, s.block.busy = false → decode [v] = .ok (i, []) → step (s.hostWrites 0x000 v) = exec i s) ∧
    (∀ L, s.block.busy = true → s.block.pend = some L → step s.engineMoves = exec L.op s) ∧
    (∀ L, s.block.busy = true → s.block.pend = some L → s.schedule = [] → step s = exec L.op s)

/-- A byte put by withFetchWord is run by the very next step, in every state. withFetchWord is the model's own, not the
hardware's: it stands for a host's CMD write and, on a BUSY state, ends the command in progress first (log entry 3), where
the hardware would ignore the write (40_commands.md R126); the table's byte is log entry 2's. -/
def Obligations.FetchWordRunsItsCommand : Prop :=
  ∀ (s : State) (w : Nat) (i : Instr), decodeTableWord 8 w = some i →
    ∃ s', step (s.withFetchWord 8 w) = exec i s' ∧ s'.sameWorld s ∧ s'.block.busy = false ∧
      s'.block.sameInputs s.block ∧ (s.block.busy = false → s' = s)

/-- 70_reset_and_hazards.md section 3, the hazard of an issue without a poll: of two CMD writes of which the first is valid,
the second, valid or not, is lost if the first command has not completed: the block ends as without it, with the first
command's results; if the first has completed, the second is a new issue that clears the first one's results. -/
def Obligations.SecondIssueIsLostOrClears : Prop :=
  ∀ (s : State) (i j : Instr), s.block.busy = false → validateOp i (s.block.latch i) = .noError →
    let w (i : Instr) : Event := .act (.write (s.kseBase + 0x000) 8 (encodeByte i))
    (∃ t u, runSteps 3 { s with schedule := [w i, w j, .act .engine] } = .next t ∧
      runSteps 2 { s with schedule := [w i, .act .engine] } = .next u ∧ t.block = u.block ∧
      t.block.cmd = encodeByte i ∧ t.block.status = 0x02 ∧
      t.block.HoldsResults (computeOp i (s.block.latch i))) ∧
    (∃ t, runSteps 3 { s with schedule := [w i, .act .engine, w j] } = .next t ∧
      t.block.cmd = encodeByte j ∧ t.block.NoResults ∧
      (validateOp j (s.block.latch j) = .noError → t.block.status = 0x01 ∧ t.block.pend = some (s.block.latch j)) ∧
      (validateOp j (s.block.latch j) ≠ .noError → errorFlag t.block.status = true ∧ t.block.pend = none))

/-- 70_reset_and_hazards.md section 3: while BUSY = 0, the eight reads of RDSUB give one consistent value, the entry. -/
def Obligations.SubkeyReadsGiveOneValue : Prop :=
  ∀ (s : State) (j : Fin 48), s.block.busy = false → s.ReadsGive (0x100 + 8 * j.val) 8 s.block.subkey[j]

/-- 70_reset_and_hazards.md section 3: while BUSY = 0, the sixteen reads of RDRK give one consistent round key, and the eight
reads of RDPRIM give one consistent PRIM_RESULT. -/
def Obligations.RoundKeyAndPrimResultReadsGiveOneValue : Prop :=
  ∀ s : State, s.block.busy = false →
    (∀ r : Fin 15, s.ReadsGive (0x300 + 16 * r.val) 16 s.block.roundkey[r]) ∧
    s.ReadsGive 0x010 8 s.block.primResult

/-- 70_reset_and_hazards.md section 3: if, after a run of byte reads, engine moves and resets from a DONE block, STATUS
still holds 0x02, then the block is as it was: no reset came between. -/
def Obligations.DoneStillThereMeansNoReset : Prop :=
  ∀ (s t : State) (evs : List Event), s.block.status = 0x02 →
    (∀ e ∈ evs, (∃ addr, e = .act (.read addr 8)) ∨ e = .act .engine ∨ ∃ a, e = .reset a) →
    runSteps evs.length { s with schedule := evs } = .next t → t.block.status = 0x02 →
    t.block = s.block ∧ ∀ a, Event.reset a ∉ evs

/-! ## The commands, from issue to results -/

/-- DES_KS (42_des.md): with KEYLEN = 8 it is accepted and its completion leaves the 16 subkeys of KEY[0..7], and nothing
else, in the result registers; with any other KEYLEN it fails with 0x14 and no result. -/
def Obligations.DesKsRunsToDone : Prop :=
  ∀ s : State, s.block.busy = false →
    (s.block.keylen = 8 → ∃ t u, exec .desKs s = .next t ∧ t.block.status = 0x01 ∧ t.block.NoResults ∧
      exec .desKs t = .next u ∧ u.sameWorld s ∧ u.block.sameInputs s.block ∧ u.block.cmd = 0x01 ∧
      u.block.status = 0x02 ∧ u.block.pend = none ∧ u.block.resultCount = 16 ∧ u.block.primResult = 0 ∧
      (∀ r : Fin 15, u.block.roundkey[r] = 0) ∧
      (desKeySchedule (slice s.block.key.toList 0 8)).length = 16 ∧
      ∀ j : Fin 48, u.block.subkey[j] = ((desKeySchedule (slice s.block.key.toList 0 8)).getD j 0).setWidth 64) ∧
    (s.block.keylen ≠ 8 → ∃ t, exec .desKs s = .next t ∧ t.block.status = 0x14 ∧ t.block.NoResults ∧
      t.block.pend = none ∧ t.block.cmd = 0x01)

/-- TDES_KS (43_tdes.md): with KEYLEN = 16 or 24 it is accepted and its completion leaves the three schedules in their
slots, set m+1 from SUBKEY[16m] on; in 2-key mode K3 is KEY[0..7]; with any other KEYLEN it fails with 0x14. -/
def Obligations.TdesKsRunsToDone : Prop :=
  ∀ s : State, s.block.busy = false →
    (s.block.keylen = 16 ∨ s.block.keylen = 24 →
      let k3 := if s.block.keylen = 16 then slice s.block.key.toList 0 8 else slice s.block.key.toList 16 24
      ∃ t u, exec .tdesKs s = .next t ∧ t.block.status = 0x01 ∧ t.block.NoResults ∧
      exec .tdesKs t = .next u ∧ u.sameWorld s ∧ u.block.sameInputs s.block ∧ u.block.cmd = 0x02 ∧
      u.block.status = 0x02 ∧ u.block.pend = none ∧ u.block.resultCount = 48 ∧ u.block.primResult = 0 ∧
      (∀ r : Fin 15, u.block.roundkey[r] = 0) ∧
      ∀ j : Fin 16,
        u.block.subkey[j.val] = ((desKeySchedule (slice s.block.key.toList 0 8)).getD j 0).setWidth 64 ∧
        u.block.subkey[16 + j.val] = ((desKeySchedule (slice s.block.key.toList 8 16)).getD j 0).setWidth 64 ∧
        u.block.subkey[32 + j.val] = ((desKeySchedule k3).getD j 0).setWidth 64) ∧
    (s.block.keylen ≠ 16 → s.block.keylen ≠ 24 → ∃ t, exec .tdesKs s = .next t ∧ t.block.status = 0x14 ∧
      t.block.NoResults ∧ t.block.pend = none ∧ t.block.cmd = 0x02)

/-- AES_KE (44_aes.md): with KEYLEN = 16, 24 or 32 it is accepted and its completion leaves the 11, 13 or 15 round keys of
KEY[0..KEYLEN-1], and nothing else; with any other KEYLEN it fails with 0x14. -/
def Obligations.AesKeRunsToDone : Prop :=
  ∀ s : State, s.block.busy = false →
    (s.block.keylen = 16 ∨ s.block.keylen = 24 ∨ s.block.keylen = 32 →
      let rk := aesKeyExpansion (slice s.block.key.toList 0 s.block.keylen.toNat)
      let count := if s.block.keylen = 16 then 11 else if s.block.keylen = 24 then 13 else 15
      ∃ t u, exec .aesKe s = .next t ∧ t.block.status = 0x01 ∧ t.block.NoResults ∧
      exec .aesKe t = .next u ∧ u.sameWorld s ∧ u.block.sameInputs s.block ∧ u.block.cmd = 0x03 ∧
      u.block.status = 0x02 ∧ u.block.pend = none ∧ u.block.resultCount = BitVec.ofNat 8 count ∧ rk.length = count ∧
      u.block.primResult = 0 ∧ (∀ j : Fin 48, u.block.subkey[j] = 0) ∧
      ∀ r : Fin 15, u.block.roundkey[r] = rk.getD r 0) ∧
    (s.block.keylen ≠ 16 → s.block.keylen ≠ 24 → s.block.keylen ≠ 32 →
      ∃ t, exec .aesKe s = .next t ∧ t.block.status = 0x14 ∧ t.block.NoResults ∧ t.block.pend = none ∧
        t.block.cmd = 0x03)

/-- The three primitive commands (41_primitives.md): when accepted, issue and completion leave the permuted or rotated
operand, zero-extended, in PRIM_RESULT, RESULT_COUNT = 1 and nothing else; out-of-domain operands fail with 0x34. -/
def Obligations.PrimitivesRunToDone : Prop :=
  let done (i : Instr) (s : State) (result : Reg64) : Prop :=
    ∃ t u, exec i s = .next t ∧ t.block.status = 0x01 ∧ t.block.NoResults ∧ exec i t = .next u ∧ u.sameWorld s ∧
      u.block.sameInputs s.block ∧ u.block.cmd = encodeByte i ∧ u.block.status = 0x02 ∧ u.block.pend = none ∧
      u.block.resultCount = 1 ∧ u.block.primResult = result ∧
      (∀ j : Fin 48, u.block.subkey[j] = 0) ∧ ∀ r : Fin 15, u.block.roundkey[r] = 0
  let failed (i : Instr) (s : State) : Prop :=
    ∃ t, exec i s = .next t ∧ t.block.status = 0x34 ∧ t.block.NoResults ∧ t.block.pend = none ∧
      t.block.cmd = encodeByte i
  ∀ s : State, s.block.busy = false →
    done .permutePc1 s ((bitPermute 56 s.block.operand pc1).setWidth 64) ∧
    (s.block.operand.toNat < 2 ^ 56 →
      done .permutePc2 s ((bitPermute 48 (s.block.operand.setWidth 56) pc2).setWidth 64)) ∧
    (2 ^ 56 ≤ s.block.operand.toNat → failed .permutePc2 s) ∧
    (s.block.operand.toNat < 2 ^ 28 → s.block.shift = 1 ∨ s.block.shift = 2 →
      done .rotl28 s (((s.block.operand.setWidth 28).rotateLeft s.block.shift.toNat).setWidth 64)) ∧
    (2 ^ 28 ≤ s.block.operand.toNat ∨ (s.block.shift ≠ 1 ∧ s.block.shift ≠ 2) → failed .rotl28 s)

/-! ## The primitives -/

/-- 41_primitives.md R140: result bit `len(T)-1-k` of BitPermute is source bit `W - T[k]`. -/
def Obligations.BitPermuteSelectsTheListedBits : Prop :=
  ∀ (w : Nat) (src : BitVec w) (table : List Nat), (∀ p ∈ table, 1 ≤ p ∧ p ≤ w) →
    ∀ k (hk : k < table.length),
      (bitPermute table.length src table).getLsbD (table.length - 1 - k) = src.getLsbD (w - table[k])

/-- 41_primitives.md R145: the laws of BitPermute for any table within its bound. -/
def Obligations.BitPermuteLaws : Prop :=
  ∀ (w : Nat) (table : List Nat), (∀ p ∈ table, 1 ≤ p ∧ p ≤ w) →
    (∀ a : BitVec w, (bitPermute table.length a table).toNat < 2 ^ table.length) ∧
    (∀ a b : BitVec w, bitPermute table.length (a ^^^ b) table =
      bitPermute table.length a table ^^^ bitPermute table.length b table) ∧
    bitPermute table.length (0 : BitVec w) table = 0 ∧
    bitPermute table.length (BitVec.allOnes w) table = BitVec.allOnes table.length ∧
    ∀ a b : BitVec w, (∀ p ∈ table, a.getLsbD (w - p) = b.getLsbD (w - p)) →
      bitPermute table.length a table = bitPermute table.length b table

/-- 41_primitives.md R152: RotateLeft28 is the formula on numbers below 2^28, and the circular rotation. -/
def Obligations.RotateLeft28IsTheCircularRotation : Prop :=
  ∀ (v : Half) (n : Nat), n = 1 ∨ n = 2 →
    (rotateLeft28 v n).toNat = ((v.toNat <<< n) ||| (v.toNat >>> (28 - n))) &&& (2 ^ 28 - 1) ∧
    rotateLeft28 v n = v.rotateLeft n

/-- 41_primitives.md R154: the laws of RotateLeft28: a bijection, two single rotations make a double one, the population
count is unchanged, and the whole DES schedule's rotations, which sum to 28, give the identity. -/
def Obligations.RotationLaws : Prop :=
  Function.Bijective (fun v : Half => rotateLeft28 v 1) ∧
  (∀ v : Half, rotateLeft28 (rotateLeft28 v 1) 1 = rotateLeft28 v 2) ∧
  (∀ (v : Half) (n : Nat), n = 1 ∨ n = 2 →
    (List.range 28).countP (fun i => (rotateLeft28 v n).getLsbD i) = (List.range 28).countP (fun i => v.getLsbD i)) ∧
  (∀ (v : Half) (m n : Nat), v.rotateLeft (m + n) = (v.rotateLeft m).rotateLeft n ∧ v.rotateLeft (m + 28) = v.rotateLeft m) ∧
  rot.sum = 28 ∧ ∀ c : Half, halfAfter c 16 = c

/-! ## DES and Triple-DES -/

/-- 42_des.md section of DesKeySchedule, in closed form: round r's subkey is PC-2 of C0 and D0, each rotated by the sum of
the first r rotation counts; C0 and D0 are the halves of PC-1 of the key. -/
def Obligations.DesScheduleClosedForm : Prop :=
  ∀ key : List Byte, key.length = 8 →
    let k56 := bitPermute 56 (beBits 64 key) pc1
    (desKeySchedule key).length = 16 ∧
    ∀ r < 16, (desKeySchedule key).getD r 0 =
      bitPermute 48 (((k56 >>> 28).setWidth 28).rotateLeft ((rot.take (r + 1)).sum) ++
        (k56.setWidth 28).rotateLeft ((rot.take (r + 1)).sum) : BitVec 56) pc2

/-- 42_des.md R174: for every 8-byte key: 16 subkeys below 2^48; equal keys give equal schedules, whatever else was
latched; complementing the key complements every subkey; after round 16 C and D are back at C0 and D0. -/
def Obligations.DesScheduleLaws : Prop :=
  (∀ key : List Byte, key.length = 8 →
    (desKeySchedule key).length = 16 ∧ (∀ k ∈ desKeySchedule key, k.toNat < 2 ^ 48) ∧
    desKeySchedule (key.map fun b => ~~~b) = (desKeySchedule key).map fun k => ~~~k) ∧
  (∀ L L' : Latched, (∀ j : Fin 8, L.key[j.val] = L'.key[j.val]) →
    (computeDesKs L).subkeys = (computeDesKs L').subkeys) ∧
  ∀ c : Half, halfAfter c 16 = c

/-- 41_primitives.md R146: the least-significant bit of every key byte has no effect on any DES subkey, and the block does
not check DES key parity: validation does not look at the key. -/
def Obligations.ParityBitsAreIgnored : Prop :=
  (∀ key : List Byte, key.length = 8 → desKeySchedule (key.map fun b => b &&& 0xFE) = desKeySchedule key) ∧
  (∀ k k' : Reg64, (∀ n < 64, n % 8 ≠ 0 → k.getLsbD n = k'.getLsbD n) → permutePc1 k = permutePc1 k') ∧
  ∀ (L : Latched) (key : Vector Byte 32), validateOp L.op { L with key := key } = validateOp L.op L

/-- 43_tdes.md R191: the split of the latched key bytes by the length: in 2-key mode K3 is KEY[0..7], whatever KEY[16..23]
holds. -/
def Obligations.TdesSplitByLength : Prop :=
  ∀ L : Latched,
    (L.keylen = 16 → tdesSplit L.keyBytes =
      (slice L.key.toList 0 8, slice L.key.toList 8 16, slice L.key.toList 0 8)) ∧
    (L.keylen = 24 → tdesSplit L.keyBytes =
      (slice L.key.toList 0 8, slice L.key.toList 8 16, slice L.key.toList 16 24))

/-- 43_tdes.md, the laws of Triple-DES: in 2-key mode the third schedule is the first; the first and the second are different
exactly when the halves differ in a bit that is not a parity bit; always three schedules of 16 subkeys below 2^48. The
injectivity of the DES schedule behind the second law is the spec's own addition: "The rank was checked by computation over
the 56 unit keys with 42_des.md rule R172 and is not a source statement". -/
def Obligations.TripleDesLaws : Prop :=
  ∀ k1 k2 k3 : List Byte, k1.length = 8 → k2.length = 8 → k3.length = 8 →
    (∀ s1 s2 s3, tripleDesKeySchedule (k1 ++ k2) = (s1, s2, s3) →
      s3 = s1 ∧ (s1 ≠ s2 ↔ k1.map (fun b => b &&& 0xFE) ≠ k2.map fun b => b &&& 0xFE) ∧
      s1.length = 16 ∧ s2.length = 16 ∧ s3.length = 16 ∧ ∀ k ∈ s1 ++ s2 ++ s3, k.toNat < 2 ^ 48) ∧
    (∀ s1 s2 s3, tripleDesKeySchedule (k1 ++ k2 ++ k3) = (s1, s2, s3) →
      s1 = desKeySchedule k1 ∧ s2 = desKeySchedule k2 ∧ s3 = desKeySchedule k3 ∧
      s1.length = 16 ∧ s2.length = 16 ∧ s3.length = 16 ∧ ∀ k ∈ s1 ++ s2 ++ s3, k.toNat < 2 ^ 48)

/-! ## AES -/

/-- 44_aes.md R213 and R214: RotWord moves byte 0 to the low end; SubWord puts each byte through the S-box on its own. -/
def Obligations.WordOperationsActOnBytes : Prop :=
  ∀ a b c d : Byte,
    rotWord (a ++ b ++ c ++ d : BitVec 32) = (b ++ c ++ d ++ a : BitVec 32) ∧
    rotWord (a ++ b ++ c ++ d : BitVec 32) = (a ++ b ++ c ++ d : BitVec 32).rotateLeft 8 ∧
    subWord (a ++ b ++ c ++ d : BitVec 32) =
      (sbox.getD a.toNat 0 ++ sbox.getD b.toNat 0 ++ sbox.getD c.toNat 0 ++ sbox.getD d.toNat 0 : BitVec 32)

/-- 44_aes.md R224: the sizes by the key length, and the first Nk words, taken from the key in big-endian groups. -/
def Obligations.AesSizes : Prop :=
  ∀ key : List Byte, key.length = 16 ∨ key.length = 24 ∨ key.length = 32 →
    let nr := if key.length = 16 then 10 else if key.length = 24 then 12 else 14
    (aesWords key).length = 4 * (nr + 1) ∧ (aesKeyExpansion key).length = nr + 1 ∧
    ∀ i < key.length / 4, ∀ n < 32, ((aesWords key).getD i 0).getLsbD n =
      (key.getD (4 * i + (3 - n / 8)) 0).getLsbD (n % 8)

/-- 44_aes.md R221: every word past the key's is the word Nk before it XOR temp, by the three cases; the extra SubWord
applies to Nk = 8 only. -/
def Obligations.AesWordRecurrence : Prop :=
  ∀ key : List Byte, key.length = 16 ∨ key.length = 24 ∨ key.length = 32 →
    let nk := key.length / 4
    let w (i : Nat) := (aesWords key).getD i 0
    ∀ i, nk ≤ i → i < (aesWords key).length →
      w i = w (i - nk) ^^^
        (if i % nk = 0 then subWord (rotWord (w (i - 1))) ^^^ ((rcon.getD (i / nk - 1) 0).setWidth 32 <<< 24)
         else if nk = 8 ∧ i % 8 = 4 then subWord (w (i - 1))
         else w (i - 1))

/-- 44_aes.md R226: byte `4c + b` of round key r is byte b of word 4r + c, the most significant first. -/
def Obligations.AesRoundKeySerialization : Prop :=
  ∀ key : List Byte, key.length = 16 ∨ key.length = 24 ∨ key.length = 32 →
    ∀ r < (aesKeyExpansion key).length, ∀ c < 4, ∀ b < 4,
      beByte ((aesKeyExpansion key).getD r 0) (4 * c + b) =
        (((aesWords key).getD (4 * r + c) 0) >>> (24 - 8 * b)).setWidth 8

/-- 44_aes.md R223: the RCON indices that case A uses, in order, for each key size, and that they are inside the table. -/
def Obligations.RconIndicesAreInRange : Prop :=
  let used (nk : Nat) : List Nat :=
    ((List.range (4 * (aesRounds nk + 1))).filter fun i => nk ≤ i && i % nk == 0).map fun i => i / nk - 1
  rcon.length = 10 ∧ used 4 = List.range 10 ∧ used 6 = List.range 8 ∧ used 8 = List.range 7 ∧
  ∀ nk ∈ [4, 6, 8], ∀ k ∈ used nk, k < rcon.length

/-- 44_aes.md section of the AES laws: round key 0 is the key's first 16 bytes; for AES-256 round key 1 is bytes 16..31, and
for AES-192 it begins with bytes 16..23. -/
def Obligations.AesFirstRoundKeysAreTheKey : Prop :=
  ∀ key : List Byte, key.length = 16 ∨ key.length = 24 ∨ key.length = 32 →
    (∀ j < 16, beByte ((aesKeyExpansion key).getD 0 0) j = key.getD j 0) ∧
    (key.length = 32 → ∀ j < 16, beByte ((aesKeyExpansion key).getD 1 0) j = key.getD (16 + j) 0) ∧
    (key.length = 24 → ∀ j < 8, beByte ((aesKeyExpansion key).getD 1 0) j = key.getD (16 + j) 0)

/-! ## Hosts and platforms -/

/-- 30_encoding.md section 4: the expansions of the pseudo-instructions, in order, and the value RDSUB and RDPRIM put
together from the bytes they read. -/
def Obligations.PseudoInstructionExpansions : Prop :=
  (∀ (h : HostAgent) (x n : Nat), n < 64 →
    (h.value64 x).getLsbD n = (h.value ⟨x, 7 - n / 8⟩).getLsbD (n % 8)) ∧
  ∀ (op : Byte) (l x : Nat) (s : HostVar) (v : Reg64) (bytes : List Byte) (j r : Nat),
    expandPseudo (HostPseudo.issue op) = [.wr 0x000 op] ∧
    expandPseudo (HostPseudo.poll l s) = [.label l, .rd 0x001 s, .bnz s 0x01 l] ∧
    expandPseudo (HostPseudo.run op l s) = expandPseudo (HostPseudo.issue op) ++ expandPseudo (HostPseudo.poll l s) ∧
    (expandPseudo (HostPseudo.wrKey bytes)).length = bytes.length + 1 ∧
    (∀ n (h : n < bytes.length), (expandPseudo (HostPseudo.wrKey bytes))[n]? = some (.wr (0x020 + n) bytes[n])) ∧
    (expandPseudo (HostPseudo.wrKey bytes))[bytes.length]? = some (.wr 0x002 (BitVec.ofNat 8 bytes.length)) ∧
    expandPseudo (HostPseudo.wrOp v) = (List.range 8).map (fun k => .wr (0x008 + k) ((v >>> (56 - 8 * k)).setWidth 8)) ∧
    expandPseudo (HostPseudo.rdSub j x) = (List.range 8).map (fun b => .rd (0x100 + 8 * j + b) ⟨x, b⟩) ∧
    expandPseudo (HostPseudo.rdRk r x) = (List.range 16).map (fun k => .rd (0x300 + 16 * r + k) ⟨x, k⟩) ∧
    expandPseudo (HostPseudo.rdPrim x) = (List.range 8).map (fun k => .rd (0x010 + k) ⟨x, k⟩)

/-- 30_encoding.md section 4: one turn of POLL's loop: with BUSY = 1 the host is back at the label, with BUSY = 0 it has
left the loop, and in both the block is untouched and the host holds STATUS. -/
def Obligations.PollLoopsExactlyWhileBusy : Prop :=
  ∀ (y : System) (l : Nat) (x : HostVar),
    y.host.program.findIdx (fun f => f == .label l) = y.host.pos →
    y.host.program[y.host.pos]? = some (.label l) →
    y.host.program[y.host.pos + 1]? = some (.rd 0x001 x) →
    y.host.program[y.host.pos + 2]? = some (.bnz x 0x01 l) →
    ∃ y1 y2 y3, y.hostTurn = .next y1 ∧ y1.hostTurn = .next y2 ∧ y2.hostTurn = .next y3 ∧
      y3.machine.block = y.machine.block ∧ y3.host.value x = y.machine.block.status ∧
      y3.host.pos = if y.machine.block.busy then y.host.pos else y.host.pos + 3

/-- 60_exceptions.md section 6, several instances: all start at reset, and a step of one never changes another. -/
def Obligations.InstancesAreIndependent : Prop :=
  (∀ (placed : List (Nat × List Event)) (s : State), s ∈ (Platform.reset placed).instances → s.block = State.reset.block) ∧
  ∀ (p q : Platform) (k : Nat), p.stepInstance k = .next q →
    q.instances.length = p.instances.length ∧
    (∀ j, j ≠ k → q.instances[j]? = p.instances[j]?) ∧
    (p.windowsApart → q.windowsApart)
end

