-- ==== Sys2Proof/Laws/Bits.lean ====
section
/-! SUPPORT. The bits of byte sequences and of concatenated words, and the lengths of the schedules, so that no proof
unfolds the folds they are written with. -/

namespace Sys2Proof.Machine

/-- Bit `i` of a byte sequence in big-endian order stands in its byte number `i / 8` from the end. -/
theorem beBits_getLsbD (n : Nat) (l : List Byte) (i : Nat) (hi : i < n) :
    (beBits n l).getLsbD i =
      if i / 8 < l.length then (l.getD (l.length - 1 - i / 8) 0).getLsbD (i % 8) else false := by
  induction l using List.reverseRecOn generalizing i with
  | nil => simp [beBits]
  | append_singleton l b ih =>
    have hstep : beBits n (l ++ [b]) = (beBits n l <<< 8) ||| b.setWidth n := by simp [beBits]
    rw [hstep, BitVec.getLsbD_or, BitVec.getLsbD_shiftLeft, BitVec.getLsbD_setWidth]
    by_cases h8 : i < 8
    · have h0 : i / 8 = 0 := by omega
      have hm : i % 8 = i := by omega
      simp [h8, hi, h0, hm]
    · rw [ih (i - 8) (by omega)]
      have hb : b.getLsbD i = false := BitVec.getLsbD_of_ge b i (by omega)
      have hd : i / 8 = (i - 8) / 8 + 1 := by omega
      have hm : i % 8 = (i - 8) % 8 := by omega
      simp only [hi, h8, hb, hd, hm, List.length_append, List.length_singleton, decide_true, decide_false, Bool.not_false,
        Bool.true_and, Bool.and_false, Bool.or_false, Nat.add_lt_add_iff_right]
      split
      · congr 1
        simp only [List.getD_eq_getElem?_getD]
        rw [List.getElem?_append_left (by omega)]
        congr 2
        omega
      · rfl

/-- Bit `i` of eight bytes in big-endian order stands in byte `7 - i/8`. -/
theorem beBits_getLsbD_64 (l : List Byte) (hl : l.length = 8) (i : Nat) (hi : i < 64) :
    (beBits 64 l).getLsbD i = (l.getD (7 - i / 8) 0).getLsbD (i % 8) := by
  rw [beBits_getLsbD 64 l i hi, hl, if_pos (by omega)]

/-- Bit `i` of four bytes in big-endian order stands in byte `3 - i/8`. -/
theorem beBits_getLsbD_32 (l : List Byte) (hl : l.length = 4) (i : Nat) (hi : i < 32) :
    (beBits 32 l).getLsbD i = (l.getD (3 - i / 8) 0).getLsbD (i % 8) := by
  rw [beBits_getLsbD 32 l i hi, hl, if_pos (by omega)]

/-- A value put together from its own bytes is the value. -/
theorem beBits_map_beByte (n : Nat) (v : BitVec (8 * n)) : beBits (8 * n) ((List.range n).map (beByte v)) = v := by
  apply BitVec.eq_of_getLsbD_eq
  intro i hi
  have hlt : i / 8 < n := by omega
  rw [beBits_getLsbD _ _ _ hi]
  simp only [List.length_map, List.length_range, hlt, if_true, List.getD_eq_getElem?_getD, List.getElem?_map,
    List.getElem?_range (show n - 1 - i / 8 < n by omega), Option.map_some, Option.getD_some, beByte,
    BitVec.getLsbD_extractLsb']
  have hm : i % 8 < 8 := by omega
  have hidx : 8 * n - 8 - 8 * (n - 1 - i / 8) + i % 8 = i := by omega
  simp [hm, hidx]

/-- The bits of four bytes put together. -/
theorem getLsbD_append_bytes (a b c d : Byte) (i : Nat) :
    (a ++ b ++ c ++ d : BitVec 32).getLsbD i =
      if i < 8 then d.getLsbD i else if i < 16 then c.getLsbD (i - 8) else if i < 24 then b.getLsbD (i - 16)
      else a.getLsbD (i - 24) := by
  refine (BitVec.getLsbD_append (x := a ++ b ++ c) (y := d) (i := i)).trans ?_
  rw [BitVec.getLsbD_append, BitVec.getLsbD_append]
  simp only [Nat.sub_sub, Nat.reduceAdd]
  (repeat' split) <;> first | rfl | omega

/-- The bits of four words put together. -/
theorem getLsbD_append_words (a b c d : AesWord) (i : Nat) :
    (a ++ b ++ c ++ d : BitVec 128).getLsbD i =
      if i < 32 then d.getLsbD i else if i < 64 then c.getLsbD (i - 32) else if i < 96 then b.getLsbD (i - 64)
      else a.getLsbD (i - 96) := by
  refine (BitVec.getLsbD_append (x := a ++ b ++ c) (y := d) (i := i)).trans ?_
  rw [BitVec.getLsbD_append, BitVec.getLsbD_append]
  simp only [Nat.sub_sub, Nat.reduceAdd]
  (repeat' split) <;> first | rfl | omega

@[simp] theorem desRounds_length (l : List Nat) (c d : Half) : (desRounds l c d).length = l.length := by
  induction l generalizing c d with
  | nil => rfl
  | cons n l ih => simp [desRounds, ih]

@[simp] theorem desKeySchedule_length (key : List Byte) : (desKeySchedule key).length = 16 := by
  simp [desKeySchedule, desSchedule64, rot]

@[simp] theorem aesExtend_length (nk more : Nat) (w : List AesWord) : (aesExtend nk more w).length = w.length + more := by
  induction more generalizing w with
  | zero => rfl
  | succ m ih => simp [aesExtend, ih]; omega

@[simp] theorem aesSeed_length (key : List Byte) : (aesSeed key).length = key.length / 4 := by simp [aesSeed]

@[simp] theorem aesKeyExpansion_length (key : List Byte) :
    (aesKeyExpansion key).length = aesRounds (key.length / 4) + 1 := by
  simp [aesKeyExpansion]

end Sys2Proof.Machine
end

