-- ==== Sys2Proof/Laws/State.lean ====
section
/-! SUPPORT. One lemma per field per update of State and Block, each true by unfolding the update. -/

namespace Sys2Proof.Machine

/-! ## Updates of State -/

@[simp] theorem State.withBlock_block (s : State) (b : Block) : (s.withBlock b).block = b := rfl
@[simp] theorem State.withBlock_kseBase (s : State) (b : Block) : (s.withBlock b).kseBase = s.kseBase := rfl
@[simp] theorem State.withBlock_schedule (s : State) (b : Block) : (s.withBlock b).schedule = s.schedule := rfl
@[simp] theorem State.withBlock_reads (s : State) (b : Block) : (s.withBlock b).reads = s.reads := rfl
@[simp] theorem State.withBlock_draws (s : State) (b : Block) : (s.withBlock b).draws = s.draws := rfl
@[simp] theorem State.withBlock_stream (s : State) (b : Block) : (s.withBlock b).stream = s.stream := rfl

@[simp] theorem State.popped_block (s : State) : (s.popped).block = s.block := rfl
@[simp] theorem State.popped_kseBase (s : State) : (s.popped).kseBase = s.kseBase := rfl
@[simp] theorem State.popped_schedule (s : State) : (s.popped).schedule = s.schedule.tail := rfl
@[simp] theorem State.popped_reads (s : State) : (s.popped).reads = s.reads := rfl
@[simp] theorem State.popped_draws (s : State) : (s.popped).draws = s.draws := rfl
@[simp] theorem State.popped_stream (s : State) : (s.popped).stream = s.stream := rfl

@[simp] theorem State.respond_block (s : State) (off : Nat) (v : Byte) : (s.respond off v).block = s.block := rfl
@[simp] theorem State.respond_kseBase (s : State) (off : Nat) (v : Byte) : (s.respond off v).kseBase = s.kseBase := rfl
@[simp] theorem State.respond_schedule (s : State) (off : Nat) (v : Byte) : (s.respond off v).schedule = s.schedule := rfl
@[simp] theorem State.respond_reads (s : State) (off : Nat) (v : Byte) : (s.respond off v).reads = (off, v) :: s.reads := rfl
@[simp] theorem State.respond_draws (s : State) (off : Nat) (v : Byte) : (s.respond off v).draws = s.draws := rfl
@[simp] theorem State.respond_stream (s : State) (off : Nat) (v : Byte) : (s.respond off v).stream = s.stream := rfl

@[simp] theorem State.respondFree_block (s : State) (off : Nat) : (s.respondFree off).block = s.block := rfl
@[simp] theorem State.respondFree_kseBase (s : State) (off : Nat) : (s.respondFree off).kseBase = s.kseBase := rfl
@[simp] theorem State.respondFree_schedule (s : State) (off : Nat) : (s.respondFree off).schedule = s.schedule := rfl
@[simp] theorem State.respondFree_reads (s : State) (off : Nat) : (s.respondFree off).reads = (off, Config.freeByte s.stream s.draws) :: s.reads := rfl
@[simp] theorem State.respondFree_draws (s : State) (off : Nat) : (s.respondFree off).draws = s.draws + 1 := rfl
@[simp] theorem State.respondFree_stream (s : State) (off : Nat) : (s.respondFree off).stream = s.stream := rfl

@[simp] theorem State.withBlock_self (s : State) : s.withBlock s.block = s := rfl

@[simp] theorem State.withBlock_withBlock (s : State) (b c : Block) : (s.withBlock b).withBlock c = s.withBlock c := rfl

/-! ## Updates of Block -/

@[simp] theorem Block.clearResults_cmd (b : Block) : (b.clearResults).cmd = b.cmd := rfl
@[simp] theorem Block.clearResults_status (b : Block) : (b.clearResults).status = b.status := rfl
@[simp] theorem Block.clearResults_keylen (b : Block) : (b.clearResults).keylen = b.keylen := rfl
@[simp] theorem Block.clearResults_resultCount (b : Block) : (b.clearResults).resultCount = 0 := rfl
@[simp] theorem Block.clearResults_shift (b : Block) : (b.clearResults).shift = b.shift := rfl
@[simp] theorem Block.clearResults_operand (b : Block) : (b.clearResults).operand = b.operand := rfl
@[simp] theorem Block.clearResults_primResult (b : Block) : (b.clearResults).primResult = 0 := rfl
@[simp] theorem Block.clearResults_key (b : Block) : (b.clearResults).key = b.key := rfl
@[simp] theorem Block.clearResults_subkey (b : Block) : (b.clearResults).subkey = Vector.replicate 48 0 := rfl
@[simp] theorem Block.clearResults_roundkey (b : Block) : (b.clearResults).roundkey = Vector.replicate 15 0 := rfl
@[simp] theorem Block.clearResults_pend (b : Block) : (b.clearResults).pend = b.pend := rfl

@[simp] theorem Block.errorEntry_cmd (b : Block) (v : Byte) (code : ErrCode) : (b.errorEntry v code).cmd = v := rfl
@[simp] theorem Block.errorEntry_status (b : Block) (v : Byte) (code : ErrCode) : (b.errorEntry v code).status = statusError code := rfl
@[simp] theorem Block.errorEntry_keylen (b : Block) (v : Byte) (code : ErrCode) : (b.errorEntry v code).keylen = b.keylen := rfl
@[simp] theorem Block.errorEntry_resultCount (b : Block) (v : Byte) (code : ErrCode) : (b.errorEntry v code).resultCount = 0 := rfl
@[simp] theorem Block.errorEntry_shift (b : Block) (v : Byte) (code : ErrCode) : (b.errorEntry v code).shift = b.shift := rfl
@[simp] theorem Block.errorEntry_operand (b : Block) (v : Byte) (code : ErrCode) : (b.errorEntry v code).operand = b.operand := rfl
@[simp] theorem Block.errorEntry_primResult (b : Block) (v : Byte) (code : ErrCode) : (b.errorEntry v code).primResult = 0 := rfl
@[simp] theorem Block.errorEntry_key (b : Block) (v : Byte) (code : ErrCode) : (b.errorEntry v code).key = b.key := rfl
@[simp] theorem Block.errorEntry_subkey (b : Block) (v : Byte) (code : ErrCode) : (b.errorEntry v code).subkey = Vector.replicate 48 0 := rfl
@[simp] theorem Block.errorEntry_roundkey (b : Block) (v : Byte) (code : ErrCode) : (b.errorEntry v code).roundkey = Vector.replicate 15 0 := rfl
@[simp] theorem Block.errorEntry_pend (b : Block) (v : Byte) (code : ErrCode) : (b.errorEntry v code).pend = none := rfl

@[simp] theorem Block.accept_cmd (b : Block) (v : Byte) (L : Latched) : (b.accept v L).cmd = v := rfl
@[simp] theorem Block.accept_status (b : Block) (v : Byte) (L : Latched) : (b.accept v L).status = statusBusy := rfl
@[simp] theorem Block.accept_keylen (b : Block) (v : Byte) (L : Latched) : (b.accept v L).keylen = b.keylen := rfl
@[simp] theorem Block.accept_resultCount (b : Block) (v : Byte) (L : Latched) : (b.accept v L).resultCount = 0 := rfl
@[simp] theorem Block.accept_shift (b : Block) (v : Byte) (L : Latched) : (b.accept v L).shift = b.shift := rfl
@[simp] theorem Block.accept_operand (b : Block) (v : Byte) (L : Latched) : (b.accept v L).operand = b.operand := rfl
@[simp] theorem Block.accept_primResult (b : Block) (v : Byte) (L : Latched) : (b.accept v L).primResult = 0 := rfl
@[simp] theorem Block.accept_key (b : Block) (v : Byte) (L : Latched) : (b.accept v L).key = b.key := rfl
@[simp] theorem Block.accept_subkey (b : Block) (v : Byte) (L : Latched) : (b.accept v L).subkey = Vector.replicate 48 0 := rfl
@[simp] theorem Block.accept_roundkey (b : Block) (v : Byte) (L : Latched) : (b.accept v L).roundkey = Vector.replicate 15 0 := rfl
@[simp] theorem Block.accept_pend (b : Block) (v : Byte) (L : Latched) : (b.accept v L).pend = some L := rfl

@[simp] theorem Block.complete_cmd (b : Block) (r : Results) : (b.complete r).cmd = b.cmd := rfl
@[simp] theorem Block.complete_status (b : Block) (r : Results) : (b.complete r).status = statusDone := rfl
@[simp] theorem Block.complete_keylen (b : Block) (r : Results) : (b.complete r).keylen = b.keylen := rfl
@[simp] theorem Block.complete_resultCount (b : Block) (r : Results) : (b.complete r).resultCount = r.count := rfl
@[simp] theorem Block.complete_shift (b : Block) (r : Results) : (b.complete r).shift = b.shift := rfl
@[simp] theorem Block.complete_operand (b : Block) (r : Results) : (b.complete r).operand = b.operand := rfl
@[simp] theorem Block.complete_primResult (b : Block) (r : Results) : (b.complete r).primResult = r.prim.getD b.primResult := rfl
@[simp] theorem Block.complete_key (b : Block) (r : Results) : (b.complete r).key = b.key := rfl
@[simp] theorem Block.complete_subkey (b : Block) (r : Results) : (b.complete r).subkey = storePrefix (r.subkeys.map (BitVec.setWidth 64)) b.subkey := rfl
@[simp] theorem Block.complete_roundkey (b : Block) (r : Results) : (b.complete r).roundkey = storePrefix r.roundkeys b.roundkey := rfl
@[simp] theorem Block.complete_pend (b : Block) (r : Results) : (b.complete r).pend = none := rfl

@[simp] theorem Block.latch_op (b : Block) (i : Instr) : (b.latch i).op = i := rfl
@[simp] theorem Block.latch_keylen (b : Block) (i : Instr) : (b.latch i).keylen = b.keylen := rfl
@[simp] theorem Block.latch_key (b : Block) (i : Instr) : (b.latch i).key = b.key := rfl
@[simp] theorem Block.latch_operand (b : Block) (i : Instr) : (b.latch i).operand = b.operand := rfl
@[simp] theorem Block.latch_shift (b : Block) (i : Instr) : (b.latch i).shift = b.shift := rfl

@[simp] theorem Block.reset_cmd : Block.reset.cmd = 0 := rfl
@[simp] theorem Block.reset_status : Block.reset.status = 0 := rfl
@[simp] theorem Block.reset_keylen : Block.reset.keylen = 0 := rfl
@[simp] theorem Block.reset_resultCount : Block.reset.resultCount = 0 := rfl
@[simp] theorem Block.reset_shift : Block.reset.shift = 0 := rfl
@[simp] theorem Block.reset_operand : Block.reset.operand = 0 := rfl
@[simp] theorem Block.reset_primResult : Block.reset.primResult = 0 := rfl
@[simp] theorem Block.reset_key : Block.reset.key = Vector.replicate 32 0 := rfl
@[simp] theorem Block.reset_subkey : Block.reset.subkey = Vector.replicate 48 0 := rfl
@[simp] theorem Block.reset_roundkey : Block.reset.roundkey = Vector.replicate 15 0 := rfl
@[simp] theorem Block.reset_pend : Block.reset.pend = none := rfl

@[simp] theorem State.reset_block : State.reset.block = Block.reset := rfl
@[simp] theorem State.reset_schedule : State.reset.schedule = [] := rfl
@[simp] theorem State.reset_stream : State.reset.stream = 0 := rfl

end Sys2Proof.Machine
end

