-- ==== Sys2Proof/Laws/Ops.lean ====
section
/-! SUPPORT. What each shared operation can do, said once: the window's map, storing to an array, the two steps of a
command, the host's accesses, the engine's move. -/

namespace Sys2Proof.Machine

/-! ## STATUS -/

@[simp] theorem busyFlag_idle : busyFlag statusIdle = false := by decide
@[simp] theorem busyFlag_zero : busyFlag 0 = false := by decide
@[simp] theorem busyFlag_busy : busyFlag statusBusy = true := by decide
@[simp] theorem busyFlag_done : busyFlag statusDone = false := by decide
@[simp] theorem busyFlag_error (code : ErrCode) : busyFlag (statusError code) = false := by cases code <;> decide

@[simp] theorem Block.busy_reset : Block.reset.busy = false := busyFlag_zero
@[simp] theorem Block.busy_errorEntry (b : Block) (v : Byte) (code : ErrCode) : (b.errorEntry v code).busy = false :=
  busyFlag_error code
@[simp] theorem Block.busy_accept (b : Block) (v : Byte) (L : Latched) : (b.accept v L).busy = true := busyFlag_busy
@[simp] theorem Block.busy_complete (b : Block) (r : Results) : (b.complete r).busy = false := busyFlag_done

/-! ## Arrays -/

@[simp] theorem storePrefix_nil {α : Type} {n : Nat} (v : Vector α n) : storePrefix [] v = v := by
  ext j hj
  simp [storePrefix]

/-- An entry the list reaches takes the list's value. -/
theorem storePrefix_below {α : Type} {n : Nat} (xs : List α) (v : Vector α n) (j : Nat) (hj : j < n) (hx : j < xs.length) :
    (storePrefix xs v)[j] = xs[j] := by
  simp [storePrefix, hx]

/-- An entry past the list keeps its value. -/
theorem storePrefix_above {α : Type} {n : Nat} (xs : List α) (v : Vector α n) (j : Nat) (hj : j < n)
    (hx : xs.length ≤ j) : (storePrefix xs v)[j] = v[j] := by
  simp [storePrefix, hx]

/-! ## Input registers -/

/-- A store to an input register keeps everything but that register. -/
theorem Block.storeInput_frame {b b' : Block} {v : Byte} {slot : Slot} (h : b.storeInput v slot = some b') :
    b'.cmd = b.cmd ∧ b'.status = b.status ∧ b'.resultCount = b.resultCount ∧ b'.primResult = b.primResult ∧
      b'.subkey = b.subkey ∧ b'.roundkey = b.roundkey ∧ b'.pend = b.pend := by
  cases slot <;> simp only [Block.storeInput, Option.some.injEq, reduceCtorEq] at h <;> subst h <;> simp

/-! ## The steps of a command -/

/-- The step of a command while BUSY = 0 is its issue. -/
theorem commandStep_issue {i : Instr} {validate : Latched → ErrCode} {compute : Latched → Results} {s : State}
    (h : s.block.busy = false) :
    commandStep i validate compute s = .next (s.withBlock (s.block.issue i (validate (s.block.latch i)))) := by
  simp [commandStep, h]

/-- The step of the command in progress is its completion. -/
theorem commandStep_complete {i : Instr} {validate : Latched → ErrCode} {compute : Latched → Results} {s : State}
    {L : Latched} (h : s.block.busy = true) (hp : s.block.pend = some L) (hop : L.op = i) :
    commandStep i validate compute s = .next (s.withBlock (s.block.complete (compute L))) := by
  simp [commandStep, h, hp, hop]

/-- Everything a command's step can do. -/
theorem commandStep_cases {i : Instr} {validate : Latched → ErrCode} {compute : Latched → Results} {s : State}
    {o : Host.Outcome State Fault Refusal} (h : commandStep i validate compute s = o) :
    (s.block.busy = false ∧ validate (s.block.latch i) = .noError ∧
        o = .next (s.withBlock (s.block.accept (encodeByte i) (s.block.latch i)))) ∨
      (s.block.busy = false ∧ validate (s.block.latch i) ≠ .noError ∧
        o = .next (s.withBlock (s.block.errorEntry (encodeByte i) (validate (s.block.latch i))))) ∨
      (s.block.busy = true ∧ ∃ L, s.block.pend = some L ∧ L.op = i ∧
        o = .next (s.withBlock (s.block.complete (compute L)))) ∨
      (s.block.busy = true ∧ (∀ L, s.block.pend = some L → L.op ≠ i) ∧ o = .next s) := by
  subst h
  cases hb : s.block.busy with
  | false =>
    rw [commandStep_issue hb]
    by_cases hv : validate (s.block.latch i) = .noError
    · exact .inl ⟨rfl, hv, by simp [Block.issue, hv]⟩
    · exact .inr (.inl ⟨rfl, hv, by simp [Block.issue, hv]⟩)
  | true =>
    cases hp : s.block.pend with
    | none => exact .inr (.inr (.inr ⟨rfl, by simp, by simp [commandStep, hb, hp]⟩))
    | some L =>
      by_cases hop : L.op = i
      · exact .inr (.inr (.inl ⟨rfl, L, rfl, hop, commandStep_complete hb hp hop⟩))
      · refine .inr (.inr (.inr ⟨rfl, ?_, by simp [commandStep, hb, hp, hop]⟩))
        rintro L' ⟨⟩
        exact hop

/-- Every command's meaning is the shared step with its own check and its own computation. -/
theorem exec_eq (i : Instr) (s : State) : exec i s = commandStep i (validateOp i) (computeOp i) s := by
  cases i <;> rfl

/-- Everything the step of a command can do. -/
theorem exec_cases {i : Instr} {s : State} {o : Host.Outcome State Fault Refusal} (h : exec i s = o) :
    (s.block.busy = false ∧ validateOp i (s.block.latch i) = .noError ∧
        o = .next (s.withBlock (s.block.accept (encodeByte i) (s.block.latch i)))) ∨
      (s.block.busy = false ∧ validateOp i (s.block.latch i) ≠ .noError ∧
        o = .next (s.withBlock (s.block.errorEntry (encodeByte i) (validateOp i (s.block.latch i))))) ∨
      (s.block.busy = true ∧ ∃ L, s.block.pend = some L ∧ L.op = i ∧
        o = .next (s.withBlock (s.block.complete (computeOp i L)))) ∨
      (s.block.busy = true ∧ (∀ L, s.block.pend = some L → L.op ≠ i) ∧ o = .next s) :=
  commandStep_cases ((exec_eq i s).symm.trans h)

/-! ## Decoding -/

/-- A command's own byte decodes to it. -/
theorem decodeByte_encodeByte (i : Instr) : decodeByte (encodeByte i) = .ok i := by cases i <;> rfl

/-- A byte that decodes to a command is that command's byte. -/
theorem eq_encodeByte_of_decodeByte {v : Byte} {i : Instr} (h : decodeByte v = .ok i) : v = encodeByte i := by
  have all : ∀ v : BitVec 8, ∀ i ∈ Instr.all, commandOf v = some i → v = encodeByte i := by decide
  exact all v i (by cases i <;> decide) (by simp [commandOf, h])

end Sys2Proof.Machine
end

