-- ==== Sys2Proof/Laws/PerInstr.lean ====
section
/-! SUPPORT. What holds of each command as syntax, one lemma per constructor of Instr. -/

namespace Sys2Proof.Laws.EncodedByte

/-- The command is well formed, and its byte has RSVD = 0 and an OP in 0x1..0x6 (30_encoding.md R90, R91). -/
def Statement (i : Instr) : Prop :=
  i.wf = true ∧ commandByteWf (encodeByte i) = true ∧ rsvdField (encodeByte i) = 0 ∧ opField (encodeByte i) = encodeOp i

theorem desKs : Statement .desKs := by unfold Statement; decide
theorem tdesKs : Statement .tdesKs := by unfold Statement; decide
theorem aesKe : Statement .aesKe := by unfold Statement; decide
theorem permutePc1 : Statement .permutePc1 := by unfold Statement; decide
theorem permutePc2 : Statement .permutePc2 := by unfold Statement; decide
theorem rotl28 : Statement .rotl28 := by unfold Statement; decide

end Sys2Proof.Laws.EncodedByte
end

