-- ==== Sys2Proof/Laws/Step.lean ====
section
/-! SUPPORT. What each kind of step can do (60_exceptions.md R268), said once. -/

namespace Sys2Proof.Machine

/-- A host access selects the window exactly when its byte lies in it. -/
theorem selects_byte (base addr : Nat) : selects base addr 8 = true ↔ base ≤ addr ∧ addr < base + windowSize := by
  simp [selects, spanBytes]

/-- Everything an issue can do (40_commands.md R121). -/
theorem issueByte_cases {v : Byte} {s : State} {o : Host.Outcome State Fault Refusal} (h : issueByte v s = o) :
    (s.block.busy = true ∧ o = .next s) ∨
      (s.block.busy = false ∧ ∃ i, decodeByte v = .ok i ∧ exec i s = o) ∨
      (s.block.busy = false ∧ (∃ e, decodeByte v = .error e) ∧
        o = .next (s.withBlock (s.block.errorEntry v .invalidCommand))) := by
  subst h
  cases hb : s.block.busy with
  | true => exact .inl ⟨rfl, by simp [issueByte, hb]⟩
  | false =>
    cases hd : decodeByte v with
    | ok i => exact .inr (.inl ⟨rfl, i, rfl, by simp [issueByte, hb, hd]⟩)
    | error e => exact .inr (.inr ⟨rfl, ⟨e, rfl⟩, by simp [issueByte, hb, hd]⟩)

/-- An accepted issue clears the results and sets CMD, PEND and STATUS: by its byte it is a valid one, or a failing one
with its code (40_commands.md R121, R123). -/
theorem issueByte_accepted {v : Byte} {s : State} (hb : s.block.busy = false) :
    (∃ i, v = encodeByte i ∧ validateOp i (s.block.latch i) = .noError ∧
        issueByte v s = .next (s.withBlock (s.block.accept v (s.block.latch i)))) ∨
      (∃ code, code ≠ .noError ∧ issueByte v s = .next (s.withBlock (s.block.errorEntry v code)) ∧
        ((code = .invalidCommand ∧ commandOf v = none) ∨
          ∃ i, v = encodeByte i ∧ validateOp i (s.block.latch i) = code)) := by
  rcases issueByte_cases (v := v) (s := s) rfl with ⟨h, _⟩ | ⟨_, i, hd, he⟩ | ⟨_, ⟨e, hd⟩, ho⟩
  · simp [hb] at h
  · have hv := eq_encodeByte_of_decodeByte hd
    subst hv
    rcases exec_cases (i := i) (s := s) rfl with ⟨_, hn, h⟩ | ⟨_, hn, h⟩ | ⟨h, _⟩ | ⟨h, _⟩
    · exact .inl ⟨i, rfl, hn, he ▸ h⟩
    · exact .inr ⟨_, hn, he ▸ h, .inr ⟨i, rfl, rfl⟩⟩
    · simp [hb] at h
    · simp [hb] at h
  · exact .inr ⟨_, by decide, ho, .inl ⟨rfl, by simp [commandOf, hd]⟩⟩

/-- Everything a host read can do (20_memory.md R62, R66). -/
theorem hostRead_cases {addr bits : Nat} {s : State} {o : Host.Outcome State Fault Refusal}
    (h : hostRead addr bits s = o) :
    (selects s.kseBase addr bits = false ∧ o = .next s) ∨
      (selects s.kseBase addr bits = true ∧ bits ≠ 8 ∧ o = .fault (.busError .accessWidth (addr - s.kseBase))) ∨
      (selects s.kseBase addr bits = true ∧ bits = 8 ∧ slotOf (addr - s.kseBase) = none ∧
        o = .fault (.busError .reservedOffset (addr - s.kseBase))) ∨
      (selects s.kseBase addr bits = true ∧ bits = 8 ∧ ∃ slot, slotOf (addr - s.kseBase) = some slot ∧
        ((s.block.busy = true ∧ slot.isResult = true ∧ o = .next (s.respondFree (addr - s.kseBase))) ∨
          ((s.block.busy = false ∨ slot.isResult = false) ∧
            o = .next (s.respond (addr - s.kseBase) (s.block.readSlot slot))))) := by
  subst h
  cases hs : selects s.kseBase addr bits with
  | false => exact .inl ⟨rfl, by simp [hostRead, hs]⟩
  | true =>
    refine .inr ?_
    by_cases hb : bits = 8
    · subst hb
      refine .inr ?_
      cases hsl : slotOf (addr - s.kseBase) with
      | none => exact .inl ⟨rfl, rfl, rfl, by simp [hostRead, hs, hsl]⟩
      | some slot =>
        refine .inr ⟨rfl, rfl, slot, rfl, ?_⟩
        cases h1 : s.block.busy <;> cases h2 : slot.isResult <;>
          simp [hostRead, hs, hsl, h1, h2]
    · exact .inl ⟨rfl, hb, by simp [hostRead, hs, hb]⟩

/-- Everything a host write can do (20_memory.md R63, R66). -/
theorem hostWrite_cases {addr bits : Nat} {v : Byte} {s : State} {o : Host.Outcome State Fault Refusal}
    (h : hostWrite addr bits v s = o) :
    (selects s.kseBase addr bits = false ∧ o = .next s) ∨
      (selects s.kseBase addr bits = true ∧ bits ≠ 8 ∧ o = .fault (.busError .accessWidth (addr - s.kseBase))) ∨
      (selects s.kseBase addr bits = true ∧ bits = 8 ∧ slotOf (addr - s.kseBase) = none ∧
        o = .fault (.busError .reservedOffset (addr - s.kseBase))) ∨
      (selects s.kseBase addr bits = true ∧ bits = 8 ∧ slotOf (addr - s.kseBase) = some .cmd ∧ issueByte v s = o) ∨
      (selects s.kseBase addr bits = true ∧ bits = 8 ∧ ∃ slot, slotOf (addr - s.kseBase) = some slot ∧ slot ≠ .cmd ∧
        ((∃ b, s.block.storeInput v slot = some b ∧ o = .next (s.withBlock b)) ∨
          (s.block.storeInput v slot = none ∧ o = .fault (.busError .readOnlyRegister (addr - s.kseBase))))) := by
  subst h
  cases hs : selects s.kseBase addr bits with
  | false => exact .inl ⟨rfl, by simp [hostWrite, hs]⟩
  | true =>
    refine .inr ?_
    by_cases hb : bits = 8
    · subst hb
      refine .inr ?_
      cases hsl : slotOf (addr - s.kseBase) with
      | none => exact .inl ⟨rfl, rfl, rfl, by simp [hostWrite, hs, hsl]⟩
      | some slot =>
        refine .inr ?_
        by_cases hc : slot = .cmd
        · subst hc
          exact .inl ⟨rfl, rfl, rfl, by simp [hostWrite, hs, hsl, writeSlot]⟩
        · refine .inr ⟨rfl, rfl, slot, rfl, hc, ?_⟩
          cases hst : s.block.storeInput v slot <;> simp [hostWrite, hs, hsl, writeSlot, hc, hst]
    · exact .inl ⟨rfl, hb, by simp [hostWrite, hs, hb]⟩

/-- Everything the engine's move can do (40_commands.md R127). -/
theorem engineTurn_cases {s : State} {o : Host.Outcome State Fault Refusal} (h : engineTurn s = o) :
    (s.block.busy = true ∧ ∃ L, s.block.pend = some L ∧
        o = .next (s.withBlock (s.block.complete (computeOp L.op L)))) ∨
      ((s.block.busy = false ∨ s.block.pend = none) ∧ o = .next s) := by
  subst h
  cases hb : s.block.busy with
  | false => exact .inr ⟨.inl rfl, by simp [engineTurn, hb]⟩
  | true =>
    cases hp : s.block.pend with
    | none => exact .inr ⟨.inr rfl, by simp [engineTurn, hb, hp]⟩
    | some L =>
      refine .inl ⟨rfl, L, rfl, ?_⟩
      simp [engineTurn, hb, hp, exec_eq, commandStep_complete hb hp rfl]

/-- The four kinds of step, by the head of the schedule (60_exceptions.md R268). -/
theorem step_cases (s : State) :
    (s.schedule = [] ∧ step s = engineTurn s) ∨
      (∃ addr bits rest, s.schedule = .act (.read addr bits) :: rest ∧ step s = hostRead addr bits s.popped) ∨
      (∃ addr bits v rest, s.schedule = .act (.write addr bits v) :: rest ∧ step s = hostWrite addr bits v s.popped) ∨
      (∃ rest, s.schedule = .act .engine :: rest ∧ step s = engineTurn s.popped) ∨
      (∃ a rest, s.schedule = .reset a :: rest ∧ step s = .next (s.popped.withBlock Block.reset)) := by
  unfold step
  cases s.schedule with
  | nil => exact .inl ⟨rfl, rfl⟩
  | cons e rest =>
    refine .inr ?_
    cases e with
    | reset a => exact .inr (.inr (.inr ⟨a, rest, rfl, rfl⟩))
    | act a =>
      cases a with
      | read addr bits => exact .inl ⟨addr, bits, rest, rfl, rfl⟩
      | write addr bits v => exact .inr (.inl ⟨addr, bits, v, rest, rfl, rfl⟩)
      | engine => exact .inr (.inr (.inl ⟨rest, rfl, rfl⟩))

end Sys2Proof.Machine
end

