-- ==== Sys2Proof/Laws/Run.lean ====
section
/-! SUPPORT. Runs of several steps, unfolded one step at a time, and the state with an event in front. -/

namespace Sys2Proof.Machine

@[simp] theorem runSteps_zero (s : State) : runSteps 0 s = .next s := rfl

/-- A run continues from the state its first step gives. -/
theorem runSteps_next {s t : State} (k : Nat) (h : step s = .next t) : runSteps (k + 1) s = runSteps k t := by
  have hc : Sys2Proof.core.step s = .next t := h
  simp only [runSteps, Host.Core.run, hc]
  rfl

/-- A run stops at a fault. -/
theorem runSteps_fault {s : State} {f : Fault} (k : Nat) (h : step s = .fault f) : runSteps (k + 1) s = .fault f := by
  have hc : Sys2Proof.core.step s = .fault f := h
  simp only [runSteps, Host.Core.run, hc]
  rfl

/-- A run stops at a refusal. -/
theorem runSteps_refused {s : State} {r : Refusal} (k : Nat) (h : step s = .refused r) :
    runSteps (k + 1) s = .refused r := by
  have hc : Sys2Proof.core.step s = .refused r := h
  simp only [runSteps, Host.Core.run, hc]
  rfl

/-- Two runs one after the other are one run. -/
theorem runSteps_add {s t : State} (m n : Nat) (h : runSteps m s = .next t) : runSteps (m + n) s = runSteps n t := by
  induction m generalizing s with
  | zero => cases h; simp
  | succ m ih =>
    rw [Nat.succ_add]
    cases hs : step s with
    | next u => rw [runSteps_next _ hs] at h ⊢; exact ih h
    | fault f => rw [runSteps_fault _ hs] at h; cases h
    | refused r => rw [runSteps_refused _ hs] at h; cases h

/-- The event in front is what the next step handles, in the state without it. -/
theorem step_upcoming (s : State) (e : Event) : step (s.upcoming e) = handle e s := rfl

@[simp] theorem State.upcoming_popped (s : State) (e : Event) : (s.upcoming e).popped = s := rfl
@[simp] theorem State.upcoming_block (s : State) (e : Event) : (s.upcoming e).block = s.block := rfl
@[simp] theorem State.upcoming_kseBase (s : State) (e : Event) : (s.upcoming e).kseBase = s.kseBase := rfl
@[simp] theorem State.upcoming_schedule (s : State) (e : Event) : (s.upcoming e).schedule = e :: s.schedule := rfl
@[simp] theorem State.upcoming_reads (s : State) (e : Event) : (s.upcoming e).reads = s.reads := rfl
@[simp] theorem State.upcoming_stream (s : State) (e : Event) : (s.upcoming e).stream = s.stream := rfl
@[simp] theorem State.upcoming_draws (s : State) (e : Event) : (s.upcoming e).draws = s.draws := rfl

/-- The instances of a platform draw their unspecified bytes from different streams (log entry 24). -/
theorem Platform.reset_streams (placed : List (Nat × List Event)) :
    (Platform.reset placed).instances.map State.stream = List.range placed.length := by
  apply List.ext_getElem <;> simp [Platform.reset]

end Sys2Proof.Machine
end

