-- ==== Sys2Proof/Tests/Slice0.lean ====
section
/-! SUPPORT. Small tests, their expected values from 95_test_vectors.md or by hand from the rule named, and for every
obligation with hypotheses a concrete state that meets them (witness_...). -/

namespace Sys2Proof.Tests

open Sys2Proof Sys2Proof.Machine

-- One theorem at a time: checked side by side they need more threads than the sandbox's memory limit allows.
set_option Elab.async false

/-! ## Helpers -/

/-- An idle block with these inputs and nothing else. -/
def idleBlock (keylen : Byte) (key : List Byte) (operand : Reg64) (shift : Byte) : Block :=
  { Block.reset with keylen := keylen, key := Vector.ofFn fun j => key.getD j.val 0, operand := operand, shift := shift }

/-- A block with command `i` in progress on these inputs. -/
def busyBlock (i : Instr) (keylen : Byte) (key : List Byte) (operand : Reg64) (shift : Byte) : Block :=
  let b := idleBlock keylen key operand shift
  b.accept (encodeByte i) (b.latch i)

/-- The reset world around a block, with the window at 0x1000. -/
def at1000 (b : Block) : State := { State.reset with block := b, kseBase := 0x1000 }

/-- What an outcome shows of the block. -/
def shows {α : Type} (f : Block → α) : Host.Outcome State Fault Refusal → Option α
  | .next s => some (f s.block)
  | .fault _ => none
  | .refused _ => none

/-- The source's DES key (95_test_vectors.md V1). -/
def sourceKey : List Byte := [0x13, 0x34, 0x57, 0x79, 0x9B, 0xBC, 0xDF, 0xF1]

/-- The second half of V3's key. -/
def secondKey : List Byte := [0x0E, 0x32, 0x92, 0x32, 0xEA, 0x6D, 0x0D, 0x73]

/-- The source's AES-128 key (95_test_vectors.md V2). -/
def aesKey : List Byte :=
  [0x2B, 0x7E, 0x15, 0x16, 0x28, 0xAE, 0xD2, 0xA6, 0xAB, 0xF7, 0x15, 0x88, 0x09, 0xCF, 0x4F, 0x3C]

/-! ## WellFormed refuses each ill-formed term -/

theorem test_wf_refuses_zero_byte : commandByteWf 0x00 = false := by decide
theorem test_wf_refuses_op_seven : commandByteWf 0x07 = false := by decide
theorem test_wf_refuses_reserved_bits : commandByteWf 0x11 = false := by decide
theorem test_wf_refuses_write_outside : (HostForm.wr 0x400 0).wf = false := by decide
theorem test_wf_refuses_read_outside : (HostForm.rd 0x400 ⟨0, 0⟩).wf = false := by decide
theorem test_wf_refuses_long_key : (HostPseudo.wrKey (List.replicate 33 0)).wf = false := by decide
theorem test_wf_refuses_subkey_48 : (HostPseudo.rdSub 48 0).wf = false := by decide
theorem test_wf_refuses_roundkey_15 : (HostPseudo.rdRk 15 0).wf = false := by decide
theorem test_wf_refuses_bad_form : hostProgramWf [.wr 0x400 0] = false := by decide
theorem test_wf_refuses_double_label : hostProgramWf [.label 0, .label 0] = false := by decide
theorem test_wf_refuses_missing_label : hostProgramWf [.bnz ⟨0, 0⟩ 1 3] = false := by decide
theorem test_wf_accepts :
    Instr.all.all (fun i => i.wf && commandByteWf (encodeByte i)) = true ∧
      hostProgramWf (expandPseudo (.run 0x01 0 ⟨0, 0⟩)) = true := by decide

/-! ## Decoding: the bytes of 30_encoding.md R91, bit by bit -/

theorem test_decode_desKs : decode [0b00000001] = .ok (.desKs, []) := rfl
theorem test_decode_tdesKs : decode [0b00000010] = .ok (.tdesKs, []) := rfl
theorem test_decode_aesKe : decode [0b00000011] = .ok (.aesKe, []) := rfl
theorem test_decode_permutePc1 : decode [0b00000100] = .ok (.permutePc1, []) := rfl
theorem test_decode_permutePc2 : decode [0b00000101] = .ok (.permutePc2, []) := rfl
theorem test_decode_rotl28 : decode [0b00000110] = .ok (.rotl28, []) := rfl

/-- 30_encoding.md R92: each kind of illegal byte is rejected by its own name. -/
theorem test_decode_rejects :
    decode [0x00] = .error (.reservedOp 0) ∧ decode [0x0F] = .error (.reservedOp 15) ∧
      decode [0x12] = .error (.reservedBits 1) ∧ decode [] = .error .noByte := ⟨rfl, rfl, rfl, rfl⟩

theorem test_table_words :
    [0x01, 0x02, 0x03, 0x04, 0x05, 0x06].map (decodeTableWord 8) =
      [some .desKs, some .tdesKs, some .aesKe, some .permutePc1, some .permutePc2, some .rotl28] := by decide

/-- The byte placed by withFetchWord is run by the very next step, also while another command is in progress. -/
theorem test_fetchWord_runs :
    shows (fun b => (b.cmd, b.status)) (step (State.reset.withFetchWord 8 0x04)) = some (0x04, 0x01) ∧
      shows (fun b => (b.cmd, b.status))
        (step ((at1000 (busyBlock .permutePc1 0 [] 0 0)).withFetchWord 8 0x06)) = some (0x06, 0x34) := by
  decide +kernel

/-! ## The commands -/

/-- 95_test_vectors.md V1 and section 2.4: SUBKEY[0], SUBKEY[15], SUBKEY[16] after DES_KS. -/
theorem test_desKs_source_key :
    shows (fun b => (b.status, b.resultCount, b.subkey[0], b.subkey[15], b.subkey[16]))
      (exec .desKs (at1000 (busyBlock .desKs 8 sourceKey 0 0))) =
      some (0x02, 16, 0x1B02EFFC7072, 0xCB3D8B0E17F5, 0) := by decide +kernel

/-- Section 2.7: DES_KS with KEYLEN = 16. -/
theorem test_desKs_bad_length :
    shows (fun b => (b.cmd, b.status, b.pend)) (exec .desKs (at1000 (idleBlock 16 sourceKey 0 0))) =
      some (0x01, 0x14, none) := by decide +kernel

/-- V3: the first subkey of each of the three schedules in 2-key mode, with other bytes in KEY[16..23]. -/
theorem test_tdesKs_two_keys :
    shows (fun b => (b.resultCount, b.subkey[0], b.subkey[16], b.subkey[32], b.subkey[47]))
      (exec .tdesKs (at1000 (busyBlock .tdesKs 16 (sourceKey ++ secondKey ++ secondKey) 0 0))) =
      some (48, 0x1B02EFFC7072, 0x36146478E1E1, 0x1B02EFFC7072, 0xCB3D8B0E17F5) := by decide +kernel

/-- 3-key mode takes K3 from KEY[16..23]: SUBKEY[47] is the last subkey of `0E329232EA6D0D73` (section 2.4). -/
theorem test_tdesKs_three_keys :
    shows (fun b => (b.subkey[31], b.subkey[32], b.subkey[47]))
      (exec .tdesKs (at1000 (busyBlock .tdesKs 24 (secondKey ++ sourceKey ++ secondKey) 0 0))) =
      some (0xCB3D8B0E17F5, 0x36146478E1E1, 0x606F044C3AE7) := by decide +kernel

/-- V2: round keys 0, 1 and 10 of the source's AES-128 key. -/
theorem test_aesKe_source_key :
    shows (fun b => (b.resultCount, b.roundkey[0], b.roundkey[1], b.roundkey[10], b.roundkey[11]))
      (exec .aesKe (at1000 (busyBlock .aesKe 16 aesKey 0 0))) =
      some (11, 0x2B7E151628AED2A6ABF7158809CF4F3C, 0xA0FAFE1788542CB123A339392A6C7605,
        0xD014F9A8C9EE2589E13F0CC8B6630CA6, 0) := by decide +kernel

/-- Section 2.6, the all-zero AES-256 key: the extra SubWord shows in ROUNDKEY[3]. -/
theorem test_aesKe_zero_256 :
    shows (fun b => (b.resultCount, b.roundkey[2], b.roundkey[3], b.roundkey[14]))
      (exec .aesKe (at1000 (busyBlock .aesKe 32 [] 0 0))) =
      some (15, 0x62636363626363636263636362636363, 0xAAFBFBFBAAFBFBFBAAFBFBFBAAFBFBFB,
        0x10F80A1753BF729C45C979E7CB706385) := by decide +kernel

/-- Section 2.6's negative vector (90_conflicts.md C1): AES-192 never takes the extra SubWord. -/
theorem test_aes192_last_round_key :
    (aesKeyExpansion [0x8E, 0x73, 0xB0, 0xF7, 0xDA, 0x0E, 0x64, 0x52, 0xC8, 0x10, 0xF3, 0x2B, 0x80, 0x90, 0x79, 0xE5,
      0x62, 0xF8, 0xEA, 0xD2, 0x52, 0x2C, 0x6B, 0x7B]).getD 12 0 = 0xE98BA06F448C773C8ECC720401002202 := by
  decide +kernel

/-- Section 2.1: the source key as an operand; and one single bit. -/
theorem test_permutePc1_source_key :
    shows (fun b => (b.status, b.resultCount, b.primResult))
      (exec .permutePc1 (at1000 (busyBlock .permutePc1 0 [] 0x133457799BBCDFF1 0))) =
      some (0x02, 1, 0x00F0CCAAF556678F) := by decide +kernel

theorem test_permutePc1_last_position :
    shows (fun b => b.primResult) (exec .permutePc1 (at1000 (busyBlock .permutePc1 0 [] 0x1000000000000000 0))) =
      some 1 := by decide +kernel

/-- Section 2.2. -/
theorem test_permutePc2_source_key :
    shows (fun b => (b.status, b.primResult))
      (exec .permutePc2 (at1000 (busyBlock .permutePc2 0 [] 0x00E19955FAACCF1E 0))) =
      some (0x02, 0x00001B02EFFC7072) := by decide +kernel

theorem test_permutePc2_rejects_bit_56 :
    shows (fun b => (b.status, b.primResult)) (exec .permutePc2 (at1000 (idleBlock 0 [] 0x0100000000000000 0))) =
      some (0x34, 0) := by decide +kernel

/-- Section 2.3: both top bits wrap. -/
theorem test_rotl28_wraps :
    shows (fun b => (b.status, b.primResult)) (exec .rotl28 (at1000 (busyBlock .rotl28 0 [] 0x000000000C000000 2))) =
      some (0x02, 3) := by decide +kernel

theorem test_rotl28_rejects :
    ([(0x0F0CCAAF, 0), (0x0F0CCAAF, 3), (0x10000000, 1), (0x8000000000000000, 2)] : List (Reg64 × Byte)).map
        (fun p => shows (fun b => b.status) (exec .rotl28 (at1000 (idleBlock 0 [] p.1 p.2)))) =
      [some 0x34, some 0x34, some 0x34, some 0x34] := by decide +kernel

/-! ## Host accesses (section 2.8) -/

theorem test_read_is_big_endian :
    step ((at1000 (idleBlock 0 [] 0x1122334455667788 0)).hostReads 0x008) =
      .next ((at1000 (idleBlock 0 [] 0x1122334455667788 0)).respond 0x008 0x11) := by rfl

theorem test_write_operand_byte :
    shows (fun b => b.operand) (step ((at1000 (idleBlock 0 [] 0x1122334455667788 0)).hostWrites 0x00F 0xAB)) =
      some 0x11223344556677AB := by decide +kernel

theorem test_bus_errors :
    step ((at1000 Block.reset).hostReads 0x018) = .fault (.busError .reservedOffset 0x018) ∧
      step ((at1000 Block.reset).hostWrites 0x001 0) = .fault (.busError .readOnlyRegister 0x001) ∧
      step ((at1000 Block.reset).upcoming (.act (.read 0x1000 16))) = .fault (.busError .accessWidth 0) :=
  ⟨rfl, rfl, rfl⟩

/-- Section 2.9: a read of a result register during BUSY gives the next free byte, whatever it is, and changes no register. -/
theorem test_read_while_busy :
    step ((at1000 (busyBlock .desKs 8 sourceKey 0 0)).hostReads 0x003) =
      .next ((at1000 (busyBlock .desKs 8 sourceKey 0 0)).respondFree 0x003) := by
  unfold step State.hostReads State.upcoming handle act hostRead
  rfl

/-- Section 2.9: reset while BUSY abandons the command. -/
theorem test_reset_while_busy :
    shows id (step ((at1000 (busyBlock .desKs 8 sourceKey 0 0)).upcoming (.reset (some .engine)))) = some Block.reset := by
  rfl

/-- Section 2.7: 0x12 with KEYLEN = 7 reports the command, not the length. -/
theorem test_error_priority :
    shows (fun b => (b.cmd, b.status)) (step ((at1000 (idleBlock 7 [] 0 0)).hostWrites 0x000 0x12)) = some (0x12, 0x24) := by
  decide +kernel

/-! ## Witnesses: the hypotheses of each obligation are met -/

/-- The DES_KS of V1 in progress, in a window at 0x1000. -/
def desBusy : State := at1000 (busyBlock .desKs 8 sourceKey 0 0)

/-- An idle instance in a window at 0x1000. -/
def idle : State := at1000 Block.reset

/-- What a failing DES_KS with KEYLEN = 7 leaves. -/
def failed : State := at1000 ((idleBlock 7 [] 0 0).errorEntry 0x01 .invalidKeyLength)

/-- The inputs latched by `desBusy`. -/
def desLatch : Latched := (idleBlock 8 sourceKey 0 0).latch .desKs

/-- PERMUTE_PC1 of an all-zero operand, done. -/
def doneState : State :=
  at1000 ((busyBlock .permutePc1 0 [] 0 0).complete (computePermutePc1 ((idleBlock 0 [] 0 0).latch .permutePc1)))

/-- The statements about a command in progress: BUSY with PEND. -/
theorem witness_desBusy : desBusy.block.busy = true ∧ desBusy.block.pend = some desLatch := ⟨rfl, rfl⟩

/-- EveryStepKeepsTheInvariant, ResultsDependOnTheLatchAlone, BusyEndsOnlyByCompletionOrReset, EveryBusyCommandFinishes: an
invariant block with a command in progress (its PEND is `witness_desBusy`'s). -/
theorem witness_desBusy_inv : desBusy.block.Inv where
  status_legal := by decide +kernel
  pend_iff_busy := rfl
  pend_valid := by
    intro L h
    have hL : desLatch = L := Option.some.inj h
    subst hL
    exact ⟨rfl, rfl⟩
  idle_cmd := fun h => absurd h (by decide +kernel)
  results_only_done := fun _ => ⟨rfl, rfl, by decide +kernel, by decide +kernel⟩
  done_shape := fun h => absurd h (by decide +kernel)
  error_cause := by
    intro code h
    cases code <;> exact absurd h (by decide +kernel)

/-- ErrorStaysUntilIssueOrReset: an invariant block in an error state. -/
theorem witness_failed_inv : failed.block.Inv ∧ errorFlag failed.block.status = true := by
  refine ⟨⟨by decide +kernel, rfl, ?_, fun h => absurd h (by decide +kernel),
    fun _ => ⟨rfl, rfl, by decide +kernel, by decide +kernel⟩, fun h => absurd h (by decide +kernel), ?_⟩, by decide⟩
  · intro L h
    cases h
  · intro code h
    cases code
    · exact absurd h (by decide +kernel)
    · exact ⟨.desKs, by decide, rfl⟩
    · exact absurd h (by decide +kernel)
    · exact absurd h (by decide +kernel)

/-- OpcodeMapIsExact and IllegalByteFailsTheIssue: bytes of each illegal kind, at the edges. -/
theorem witness_illegal_bytes :
    (∀ v ∈ [(0x00 : Byte), 0x07, 0x0F, 0x10, 0x11, 0xFF],
      v ∉ [(0b00000001 : Byte), 0b00000010, 0b00000011, 0b00000100, 0b00000101, 0b00000110] ∧
        ((opField v).toNat == 0 || 7 ≤ (opField v).toNat || rsvdField v != 0) = true ∧ commandOf v = none) ∧
      idle.block.busy = false := by decide

/-- IssueRightAfterReset. -/
theorem witness_after_reset : idle.block = State.reset.block := rfl

/-- EveryStepKeepsTheInvariant and StatusIsOneOfSixValues: a completion from an invariant state, and a failing issue. -/
theorem witness_invariant_steps :
    (∃ t, step desBusy.engineMoves = .next t) ∧ (∃ t, step (failed.hostWrites 0x000 0x00) = .next t) ∧
      (∃ t, step desBusy = .next t) := ⟨⟨_, rfl⟩, ⟨_, rfl⟩, ⟨_, rfl⟩⟩

/-- RegisterBytesAreBigEndian, the last clause, at both ends of the range. -/
theorem witness_subkey_range :
    Block.reset.subkey[(0 : Fin 48)].toNat < 2 ^ 48 ∧
      ({ Block.reset with subkey := Vector.replicate 48 0xFFFFFFFFFFFF } : Block).subkey[(47 : Fin 48)].toNat < 2 ^ 48 := by
  decide +kernel

/-- HostReadReturnsTheRegisterByte: mapped offsets at the edges, read while idle and while BUSY. -/
theorem witness_mapped_reads :
    (∀ off ∈ [0x000, 0x001, 0x002, 0x003, 0x004, 0x008, 0x00F, 0x010, 0x017, 0x020, 0x03F, 0x100, 0x27F, 0x300, 0x3EF],
      off < 0x400 ∧ idle.block.readOffset off = some 0 ∧ ¬(idle.block.busy = true ∧ resultOffset off)) ∧
      desBusy.block.readOffset 0x001 = some 0x01 ∧ ¬(desBusy.block.busy = true ∧ resultOffset 0x001) := by
  unfold resultOffset
  decide +kernel

/-- HostReadReturnsTheRegisterByte: result offsets at the edges, while BUSY. -/
theorem witness_busy_result_reads :
    desBusy.block.busy = true ∧
      ∀ off ∈ [0x003, 0x010, 0x017, 0x100, 0x27F, 0x300, 0x3EF], off < 0x400 ∧ resultOffset off := by
  unfold resultOffset
  decide +kernel

/-- HostReadReturnsTheRegisterByte and ForbiddenAccessRaisesBusError: reserved offsets at the edges. -/
theorem witness_reserved_offsets :
    ∀ off ∈ [0x005, 0x007, 0x018, 0x01F, 0x040, 0x0FF, 0x280, 0x2FF, 0x3F0, 0x3FF],
      off < 0x400 ∧ reservedOffset off ∧ idle.block.readOffset off = none := by
  unfold reservedOffset
  decide +kernel

/-- HostWriteActsByItsDestination: the three cases of CMD, and destinations that are neither CMD nor an input. -/
theorem witness_write_cases :
    desBusy.block.busy = true ∧ idle.block.busy = false ∧ commandOf 0x06 = some .rotl28 ∧ commandOf 0x00 = none ∧
      ∀ off ∈ [0x001, 0x003, 0x005, 0x007, 0x010, 0x01F, 0x040, 0x100, 0x2FF, 0x300, 0x3FF],
        off < 0x400 ∧ off ≠ 0x000 ∧ ¬inputOffset off := by
  unfold inputOffset
  decide +kernel

/-- ForbiddenAccessRaisesBusError: read-only registers at the edges, and widths other than a byte. -/
theorem witness_read_only_offsets :
    (∀ off ∈ [0x001, 0x003, 0x010, 0x017, 0x100, 0x27F, 0x300, 0x3EF], off = 0x001 ∨ resultOffset off) ∧
      0x3FF < 0x400 ∧ ∀ bits ∈ [0, 1, 7, 9, 16, 32], bits ≠ 8 := by
  unfold resultOffset
  decide

/-- WindowIsSelectedByItsBase: the addresses at both edges of a window, inside and outside. -/
theorem witness_window_edges :
    (idle.kseBase ≤ 0x1000 ∧ 0x1000 < idle.kseBase + 0x400) ∧ (idle.kseBase ≤ 0x13FF ∧ 0x13FF < idle.kseBase + 0x400) ∧
      0xFFF < idle.kseBase ∧ idle.kseBase + 0x400 ≤ 0x1400 := by decide

/-- OnlyBusErrorsStopARun: both sides of the equivalence happen. -/
theorem witness_bus_error :
    (∃ f, step (idle.hostReads 0x005) = .fault f) ∧
      ∃ e rest, (idle.hostReads 0x005).schedule = e :: rest ∧ e.isBusError (idle.hostReads 0x005).kseBase = true :=
  ⟨⟨_, rfl⟩, _, _, rfl, by decide⟩

/-- RepeatedInputWriteIsIdempotent and InputsMayBeStagedDuringBusy: input offsets at the edges, and their writes. -/
theorem witness_input_writes :
    (∀ off ∈ [0x002, 0x004, 0x008, 0x00F, 0x020, 0x03F], inputOffset off) ∧
      (∃ t, step (idle.hostWrites 0x03F 0xAB) = .next t) ∧ ∃ t, step (desBusy.hostWrites 0x002 16) = .next t := by
  refine ⟨?_, ⟨_, rfl⟩, _, rfl⟩
  unfold inputOffset
  decide

/-- IssueStep and FailingIssueIsSynchronous: a valid issue, and one failing with each code. -/
theorem witness_issues :
    idle.block.busy = false ∧ validate 0x04 (idle.block.latch .desKs) = .noError ∧
      validate 0x01 (idle.block.latch .desKs) = .invalidKeyLength ∧
      validate 0x00 (idle.block.latch .desKs) = .invalidCommand ∧
      validate 0x06 (idle.block.latch .desKs) = .invalidOperand := by decide +kernel

/-- CompletionWritesTheResults: each command in progress on inputs it accepts. -/
theorem witness_completions :
    ∀ i ∈ Instr.all,
      let b := busyBlock i (if i = .desKs then 8 else 16) sourceKey 1 1
      b.busy = true ∧ b.pend.map (fun L => (L.op, validateOp i L)) = some (i, .noError) := by decide +kernel

/-- ResultsDependOnTheLatchAlone: one instance left alone, and one whose host overwrites KEYLEN and issues again. -/
theorem witness_two_runs :
    desBusy.block.pend = some desLatch ∧
      (∀ e ∈ ([] : List Event), e.isHostAccess = true ∧ e.isBusError desBusy.kseBase = false) ∧
      ∀ e ∈ [Event.act (.write 0x1002 8 16), .act (.write 0x1000 8 3), .act (.read 0x1102 8)],
        e.isHostAccess = true ∧ e.isBusError desBusy.kseBase = false := by
  refine ⟨rfl, by simp, ?_⟩
  decide +kernel

/-- BusyEndsOnlyByCompletionOrReset: a step of each of its three kinds. -/
theorem witness_busy_steps :
    (∃ t, step (desBusy.hostReads 0x001) = .next t ∧ t.block.busy = true) ∧
      (∃ t, step desBusy.engineMoves = .next t ∧ t.block.status = 0x02) ∧
      ∃ t, step (desBusy.upcoming (.reset none)) = .next t ∧ t.block = State.reset.block :=
  ⟨⟨_, rfl, rfl⟩, ⟨_, rfl, rfl⟩, _, rfl, rfl⟩

/-- ErrorStaysUntilIssueOrReset, with a step that keeps the error and one that ends it. -/
theorem witness_error_steps :
    (∃ t, step (failed.hostWrites 0x002 8) = .next t ∧ t.block.status = failed.block.status) ∧
      ∃ t, step (failed.hostWrites 0x000 4) = .next t ∧ t.block.status ≠ failed.block.status :=
  ⟨⟨_, rfl, rfl⟩, _, rfl, by decide +kernel⟩

/-- EachRegisterHasItsOwnCause: a step that changes each register. -/
theorem witness_causes :
    (∃ t, step (idle.hostWrites 0x000 4) = .next t ∧ t.block.cmd ≠ idle.block.cmd ∧ t.block.status ≠ idle.block.status ∧
        t.block.pend ≠ idle.block.pend) ∧
      (∃ t, step (idle.hostWrites 0x002 8) = .next t ∧ t.block.keylen ≠ idle.block.keylen) ∧
      (∃ t, step (idle.hostWrites 0x004 1) = .next t ∧ t.block.shift ≠ idle.block.shift) ∧
      (∃ t, step (idle.hostWrites 0x00F 1) = .next t ∧ t.block.operand ≠ idle.block.operand) ∧
      (∃ t, step (idle.hostWrites 0x03F 1) = .next t ∧
        t.block.key[(31 : Fin 32)] ≠ idle.block.key[(31 : Fin 32)]) ∧
      ∃ t, step desBusy.engineMoves = .next t ∧ ¬t.block.sameResults desBusy.block := by
  refine ⟨⟨_, rfl, ?_⟩, ⟨_, rfl, ?_⟩, ⟨_, rfl, ?_⟩, ⟨_, rfl, ?_⟩, ⟨_, rfl, ?_⟩, _, rfl, ?_⟩
  · decide +kernel
  · decide +kernel
  · decide +kernel
  · decide +kernel
  · decide +kernel
  · exact fun h => absurd h.1 (by decide +kernel)

/-- CommandFrame: every command has a next state, and one that is not in progress has one too. -/
theorem witness_frames :
    (∀ i, ∃ t, exec i idle = .next t) ∧ (∃ t, exec .desKs desBusy = .next t) ∧
      (∃ t, exec .aesKe desBusy = .next t) ∧ ∀ L, desBusy.block.pend = some L → L.op ≠ .aesKe := by
  refine ⟨fun i => by cases i <;> exact ⟨_, rfl⟩, ⟨_, rfl⟩, ⟨_, rfl⟩, ?_⟩
  intro L h
  have hL : desLatch = L := Option.some.inj h
  subst hL
  decide

/-- StepRunsTheDecodedCommand and FetchWordRunsItsCommand. -/
theorem witness_decoded :
    decode [0x03] = .ok (.aesKe, []) ∧ idle.block.busy = false ∧ desBusy.schedule = [] ∧
      decodeTableWord 8 0x03 = some .aesKe := ⟨rfl, rfl, rfl, rfl⟩

/-- SecondIssueIsLostOrClears: at reset PERMUTE_PC1 is a valid first issue; PERMUTE_PC2 is a valid second one and DES_KS is
not. -/
theorem witness_second_issue :
    idle.block.busy = false ∧ validateOp .permutePc1 (idle.block.latch .permutePc1) = .noError ∧
      validateOp .permutePc2 (idle.block.latch .permutePc2) = .noError ∧
      validateOp .desKs (idle.block.latch .desKs) ≠ .noError := by decide +kernel

/-- SubkeyReadsGiveOneValue and RoundKeyAndPrimResultReadsGiveOneValue: a block with BUSY = 0 whose PRIM_RESULT is not 0. -/
theorem witness_result_reads :
    let s := at1000 ((busyBlock .permutePc1 0 [] (BitVec.allOnes 64) 0).complete (primResults (BitVec.allOnes 56)))
    s.block.busy = false ∧ s.block.primResult = 0x00FFFFFFFFFFFFFF := by decide +kernel

/-- DoneStillThereMeansNoReset. -/
theorem witness_done :
    doneState.block.status = 0x02 ∧
      (∀ e ∈ [Event.act (.read 0x1001 8), .act .engine],
        (∃ addr, e = .act (.read addr 8)) ∨ e = .act .engine ∨ ∃ a, e = .reset a) ∧
      ∃ t, runSteps 2 { doneState with schedule := [.act (.read 0x1001 8), .act .engine] } = .next t ∧
        t.block.status = 0x02 := by
  refine ⟨rfl, ?_, _, rfl, rfl⟩
  intro e he
  rcases List.mem_cons.mp he with rfl | he
  · exact .inl ⟨_, rfl⟩
  · rcases List.mem_cons.mp he with rfl | he
    · exact .inr (.inl rfl)
    · cases he

/-- DesKsRunsToDone, TdesKsRunsToDone, AesKeRunsToDone: an idle block with each accepted length and lengths beside them. -/
theorem witness_lengths :
    ∀ n ∈ [(0 : Byte), 7, 8, 9, 15, 16, 17, 23, 24, 25, 31, 32, 33, 255],
      (at1000 (idleBlock n sourceKey 0 0)).block.busy = false ∧ (at1000 (idleBlock n sourceKey 0 0)).block.keylen = n := by
  decide +kernel

/-- PrimitivesRunToDone: operands and counts on both sides of each bound. -/
theorem witness_operands :
    (idleBlock 0 [] (2 ^ 56 - 1) 0).operand.toNat < 2 ^ 56 ∧ 2 ^ 56 ≤ (idleBlock 0 [] (2 ^ 56) 0).operand.toNat ∧
      (idleBlock 0 [] (2 ^ 28 - 1) 2).operand.toNat < 2 ^ 28 ∧ 2 ^ 28 ≤ (idleBlock 0 [] (2 ^ 28) 1).operand.toNat ∧
      ((idleBlock 0 [] 0 2).shift = 1 ∨ (idleBlock 0 [] 0 2).shift = 2) ∧
      ((idleBlock 0 [] 0 3).shift ≠ 1 ∧ (idleBlock 0 [] 0 3).shift ≠ 2) := by decide +kernel

/-- BitPermuteSelectsTheListedBits and BitPermuteLaws: both ROM tables are within their bound, and so are its edges. -/
theorem witness_tables :
    (∀ p ∈ pc1, 1 ≤ p ∧ p ≤ 64) ∧ (∀ p ∈ pc2, 1 ≤ p ∧ p ≤ 56) ∧ (∀ p ∈ [1, 64], 1 ≤ p ∧ p ≤ 64) ∧
      0 < pc1.length ∧ 55 < pc1.length := by decide +kernel

/-- BitPermuteLaws, the last clause: two different sources that agree on PC1's positions. -/
theorem witness_parity_bits :
    (1 : Reg64) ≠ 0 ∧ ∀ p ∈ pc1, (1 : Reg64).getLsbD (64 - p) = (0 : Reg64).getLsbD (64 - p) := by decide +kernel

/-- The statements on keys: keys of each length. -/
theorem witness_keys :
    sourceKey.length = 8 ∧ secondKey.length = 8 ∧ aesKey.length = 16 ∧ (aesKey ++ sourceKey).length = 24 ∧
      (aesKey ++ aesKey).length = 32 ∧ (∃ s1 s2 s3, tripleDesKeySchedule (sourceKey ++ secondKey) = (s1, s2, s3)) ∧
      ∃ s1 s2 s3, tripleDesKeySchedule (sourceKey ++ secondKey ++ sourceKey) = (s1, s2, s3) :=
  ⟨rfl, rfl, rfl, rfl, rfl, ⟨_, _, _, rfl⟩, _, _, _, rfl⟩

/-- DesScheduleLaws and TdesSplitByLength: latches that agree on the first eight key bytes only, of both lengths. -/
theorem witness_latches :
    (∀ j : Fin 8, ((idleBlock 16 (sourceKey ++ secondKey) 0 0).latch .tdesKs).key[j.val] =
      ((idleBlock 24 sourceKey 0 0).latch .tdesKs).key[j.val]) ∧
      ((idleBlock 16 (sourceKey ++ secondKey) 0 0).latch .tdesKs).keylen = 16 ∧
      ((idleBlock 24 sourceKey 0 0).latch .tdesKs).keylen = 24 := by decide +kernel

/-- AesWordRecurrence: a word of each of the three cases of 44_aes.md R221. -/
theorem witness_aes_words :
    (aesWords (aesKey ++ aesKey)).length = 60 ∧ (8 ≤ 8 ∧ 8 % 8 = 0) ∧ (8 ≤ 12 ∧ 12 % 8 = 4) ∧ (8 ≤ 59 ∧ 59 % 8 = 3) := by
  decide +kernel

/-- RconIndicesAreInRange: the first and the last index of AES-128 are used. -/
theorem witness_rcon_uses :
    let used := ((List.range 44).filter fun i => 4 ≤ i && i % 4 == 0).map fun i => i / 4 - 1
    0 ∈ used ∧ 9 ∈ used := by decide

/-- PollLoopsExactlyWhileBusy: a host at POLL's label, with the block idle and with it BUSY. -/
theorem witness_poll :
    let host : HostAgent := ⟨expandPseudo (.poll 7 ⟨0, 0⟩), 0, []⟩
    (∀ m ∈ [idle, desBusy],
      let y : System := ⟨host, m⟩
      y.host.program.findIdx (fun f => f == .label 7) = y.host.pos ∧
        y.host.program[y.host.pos]? = some (.label 7) ∧
        y.host.program[y.host.pos + 1]? = some (.rd 0x001 ⟨0, 0⟩) ∧
        y.host.program[y.host.pos + 2]? = some (.bnz ⟨0, 0⟩ 0x01 7)) := by decide +kernel

/-- PseudoInstructionExpansions: the bits at the ends of a value, and a byte of an eight-byte key. -/
theorem witness_expansions : 0 < 64 ∧ 63 < 64 ∧ 7 < sourceKey.length := by decide

/-- InstancesAreIndependent: two instances apart, one of which takes a step. -/
theorem witness_platform :
    (∃ s, s ∈ (Platform.reset [(0x1000, []), (0x1400, [])]).instances) ∧
      (Platform.reset [(0x1000, []), (0x1400, [])]).windowsApart ∧
      ∃ q, (Platform.reset [(0x1000, []), (0x1400, [.act (.write 0x1402 8 8)])]).stepInstance 1 = .next q := by
  refine ⟨⟨_, List.mem_cons_self⟩, ?_, _, rfl⟩
  unfold Platform.windowsApart Platform.reset
  simp [windowSize]

end Sys2Proof.Tests
end

section
/-! The invariant of a block and the six values of STATUS (10_state.md R25): what a step can do to the block, said once;
that each of these moves keeps `Block.Inv`; and what the invariant says of STATUS. -/

namespace Sys2Proof.Machine

/-! ## What a step can do to the block -/

/-- `b` fails the issue of byte `v` with `code` (30_encoding.md R92; 40_commands.md R123): the byte spells no command, or
its command's own check gives the code. -/
def Block.Rejects (b : Block) (v : Byte) (code : ErrCode) : Prop :=
  (code = .invalidCommand ∧ commandOf v = none) ∨
    (code ≠ .noError ∧ ∃ i, v = encodeByte i ∧ validateOp i (b.latch i) = code)

/-- The ways one step can change the block (60_exceptions.md R268); `step_blockMove` ties them to `step`. -/
inductive BlockMove (b : Block) : Block → Prop where
  | keep : BlockMove b b
  | store {v : Byte} {slot : Slot} {b' : Block} (hstore : b.storeInput v slot = some b') : BlockMove b b'
  | accept {i : Instr} (hidle : b.busy = false) (hvalid : validateOp i (b.latch i) = .noError) :
      BlockMove b (b.accept (encodeByte i) (b.latch i))
  | fail {v : Byte} {code : ErrCode} (hidle : b.busy = false) (hrej : b.Rejects v code) :
      BlockMove b (b.errorEntry v code)
  | complete {L : Latched} (hbusy : b.busy = true) (hpend : b.pend = some L) :
      BlockMove b (b.complete (computeOp L.op L))
  | reset : BlockMove b Block.reset

theorem issueByte_blockMove {v : Byte} {s t : State} (h : issueByte v s = .next t) : BlockMove s.block t.block := by
  cases hb : s.block.busy with
  | true =>
    have hst : s = t := by simpa [issueByte, hb] using h
    exact hst ▸ .keep
  | false =>
    rcases issueByte_accepted (v := v) hb with ⟨i, rfl, hv, ho⟩ | ⟨code, hne, ho, hcause⟩
    · cases ho.symm.trans h
      exact .accept hb hv
    · cases ho.symm.trans h
      exact .fail hb (hcause.imp id fun hi => ⟨hne, hi⟩)

theorem hostRead_block {addr bits : Nat} {s t : State} (h : hostRead addr bits s = .next t) : t.block = s.block := by
  rcases hostRead_cases h with
    ⟨_, ho⟩ | ⟨_, _, ho⟩ | ⟨_, _, _, ho⟩ | ⟨_, _, _, _, ⟨_, _, ho⟩ | ⟨_, ho⟩⟩ <;> cases ho <;> rfl

theorem hostWrite_blockMove {addr bits : Nat} {v : Byte} {s t : State} (h : hostWrite addr bits v s = .next t) :
    BlockMove s.block t.block := by
  rcases hostWrite_cases h with
    ⟨_, ho⟩ | ⟨_, _, ho⟩ | ⟨_, _, _, ho⟩ | ⟨_, _, _, hissue⟩ | ⟨_, _, _, _, _, ⟨b, hstore, ho⟩ | ⟨_, ho⟩⟩
  · cases ho
    exact .keep
  · cases ho
  · cases ho
  · exact issueByte_blockMove hissue
  · cases ho
    exact .store hstore
  · cases ho

theorem engineTurn_blockMove {s t : State} (h : engineTurn s = .next t) : BlockMove s.block t.block := by
  rcases engineTurn_cases h with ⟨hb, L, hp, ho⟩ | ⟨_, ho⟩ <;> cases ho
  · exact .complete hb hp
  · exact .keep

theorem step_blockMove {s t : State} (h : step s = .next t) : BlockMove s.block t.block := by
  rcases step_cases s with
    ⟨_, hs⟩ | ⟨_, _, _, _, hs⟩ | ⟨_, _, _, _, _, hs⟩ | ⟨_, _, hs⟩ | ⟨_, _, _, hs⟩
  · exact engineTurn_blockMove (hs.symm.trans h)
  · exact hostRead_block (hs.symm.trans h) ▸ .keep
  · exact hostWrite_blockMove (s := s.popped) (hs.symm.trans h)
  · exact engineTurn_blockMove (s := s.popped) (hs.symm.trans h)
  · cases hs.symm.trans h
    exact .reset

/-! ## STATUS -/

theorem statusError_injective {code code' : ErrCode} (h : statusError code = statusError code') : code = code' := by
  revert h
  cases code <;> cases code' <;> decide

theorem statusError_ne_idle (code : ErrCode) : statusError code ≠ statusIdle := by cases code <;> decide
theorem statusError_ne_busy (code : ErrCode) : statusError code ≠ statusBusy := by cases code <;> decide
theorem statusError_ne_done (code : ErrCode) : statusError code ≠ statusDone := by cases code <;> decide

theorem statusError_legal {code : ErrCode} (h : code ≠ .noError) : statusError code ∈ legalStatuses := by
  cases code with
  | noError => exact absurd rfl h
  | invalidKeyLength => decide
  | invalidCommand => decide
  | invalidOperand => decide

/-- 10_state.md R25 on a legal value: BUSY, DONE and ERROR exclude each other, and ERRCODE is nonzero exactly with ERROR. -/
theorem legalStatuses_flags : ∀ st ∈ legalStatuses,
    ¬(busyFlag st ∧ doneFlag st) ∧ ¬(busyFlag st ∧ errorFlag st) ∧ ¬(doneFlag st ∧ errorFlag st) ∧
      (errCodeField st ≠ 0 ↔ errorFlag st = true) := by decide

theorem legalStatuses_busyFlag : ∀ st ∈ legalStatuses, (st = statusBusy ↔ busyFlag st = true) := by decide

theorem checkKeyLength_eq_noError {accepted : List Nat} {L : Latched} :
    checkKeyLength accepted L = .noError ↔ L.keylen.toNat ∈ accepted := by simp [checkKeyLength]

theorem checkKeyLength_of_ne_noError {accepted : List Nat} {L : Latched} (h : checkKeyLength accepted L ≠ .noError) :
    checkKeyLength accepted L = .invalidKeyLength := if_neg fun hmem => h (checkKeyLength_eq_noError.mpr hmem)

/-- Which command fails its own check, by the code (40_commands.md R123). -/
theorem validateOp_failure (i : Instr) (L : Latched) (h : validateOp i L ≠ .noError) :
    (validateOp i L = .invalidKeyLength ∧ i ∈ [Instr.desKs, .tdesKs, .aesKe]) ∨
      (validateOp i L = .invalidOperand ∧ i ∈ [Instr.permutePc2, .rotl28]) := by
  cases i with
  | desKs => exact .inl ⟨checkKeyLength_of_ne_noError h, by decide⟩
  | tdesKs => exact .inl ⟨checkKeyLength_of_ne_noError h, by decide⟩
  | aesKe => exact .inl ⟨checkKeyLength_of_ne_noError h, by decide⟩
  | permutePc1 => exact absurd rfl h
  | permutePc2 => exact .inr ⟨by simpa [validateOp, validatePermutePc2] using h, by decide⟩
  | rotl28 => exact .inr ⟨by simpa [validateOp, validateRotl28] using h, by decide⟩

/-! ## The result registers -/

theorem Block.noResults_clearResults (b : Block) : b.clearResults.NoResults where
  count := rfl
  prim := rfl
  subkeys := by simp
  roundkeys := by simp

theorem Block.noResults_of_sameResults {b c : Block} (h : c.sameResults b) (hb : b.NoResults) : c.NoResults := by
  obtain ⟨hcount, hprim, hsub, hround⟩ := h
  exact ⟨hcount ▸ hb.count, hprim ▸ hb.prim, hsub ▸ hb.subkeys, hround ▸ hb.roundkeys⟩

theorem Block.resultShape_of_sameResults {b c : Block} {i : Instr} (h : c.sameResults b) (hb : b.ResultShape i) :
    c.ResultShape i := by
  obtain ⟨hcount, hprim, hsub, hround⟩ := h
  cases i <;> simpa only [Block.ResultShape, hcount, hprim, hsub, hround] using hb

theorem Block.noResults_accept (b : Block) (v : Byte) (L : Latched) : (b.accept v L).NoResults :=
  Block.noResults_of_sameResults (b := b.clearResults) ⟨rfl, rfl, rfl, rfl⟩ b.noResults_clearResults

theorem Block.noResults_errorEntry (b : Block) (v : Byte) (code : ErrCode) : (b.errorEntry v code).NoResults :=
  Block.noResults_of_sameResults (b := b.clearResults) ⟨rfl, rfl, rfl, rfl⟩ b.noResults_clearResults

/-- What holds of the entries given and of the entries before holds of every entry after the store. -/
theorem storePrefix_forall {α : Type} {n : Nat} {P : α → Prop} {xs : List α} {v : Vector α n} (hxs : ∀ x ∈ xs, P x)
    (hv : ∀ j : Fin n, P v[j]) (j : Fin n) : P (storePrefix xs v)[j] := by
  by_cases hj : j.val < xs.length
  · exact (storePrefix_below xs v j j.isLt hj).symm ▸ hxs _ (List.getElem_mem hj)
  · exact (storePrefix_above xs v j j.isLt (by omega)).symm ▸ hv j

/-- A SUBKEY entry is 48 bits wide after a completion on cleared results (10_state.md R32). -/
theorem Block.complete_subkey_lt {b : Block} (hb : b.NoResults) (r : Results) (j : Fin 48) :
    (b.complete r).subkey[j].toNat < 2 ^ 48 := by
  refine storePrefix_forall (P := fun x : Reg64 => x.toNat < 2 ^ 48) ?_ (fun k => by simp [hb.subkeys k]) j
  intro x hx
  obtain ⟨k, _, rfl⟩ := List.mem_map.mp hx
  rw [BitVec.toNat_setWidth]
  exact (Nat.mod_le _ _).trans_lt k.isLt

/-- The number of latched key bytes, for a KEYLEN within KEY (10_state.md R31). -/
theorem Latched.keyBytes_length {L : Latched} (h : L.keylen.toNat ≤ 32) : L.keyBytes.length = L.keylen.toNat := by
  simp [Latched.keyBytes, slice, h]

theorem validateAesKe_noError {L : Latched} (h : validateAesKe L = .noError) :
    L.keylen.toNat = 16 ∨ L.keylen.toNat = 24 ∨ L.keylen.toNat = 32 := by
  simpa using checkKeyLength_eq_noError.mp h

/-- The number of round keys of each accepted key length: 11, 13 and 15 (44_aes.md R224). -/
theorem aesKeyExpansion_length_of_valid {L : Latched} (h : validateAesKe L = .noError) :
    (aesKeyExpansion L.keyBytes).length = 11 ∨ (aesKeyExpansion L.keyBytes).length = 13 ∨
      (aesKeyExpansion L.keyBytes).length = 15 := by
  have hlen := validateAesKe_noError h
  rw [aesKeyExpansion_length, Latched.keyBytes_length (by omega)]
  rcases hlen with hl | hl | hl <;> rw [hl] <;> decide

/-- A primitive's completion on cleared results: one result, of the width of its value (40_commands.md R127). -/
theorem Block.complete_primResults {b : Block} (hb : b.NoResults) {w : Nat} (v : BitVec w) :
    let c := b.complete (primResults v)
    c.resultCount = 1 ∧ (∀ j : Fin 48, c.subkey[j] = 0) ∧ (∀ r : Fin 15, c.roundkey[r] = 0) ∧
      c.primResult.toNat < 2 ^ w := by
  refine ⟨rfl, by simpa [primResults] using hb.subkeys, by simpa [primResults] using hb.roundkeys, ?_⟩
  change (v.setWidth 64).toNat < 2 ^ w
  rw [BitVec.toNat_setWidth]
  exact (Nat.mod_le _ _).trans_lt v.isLt

/-- The completion of a valid command on cleared results leaves the shape of its results (40_commands.md R127). -/
theorem Block.complete_resultShape {b : Block} (hb : b.NoResults) (i : Instr) {L : Latched}
    (hv : validateOp i L = .noError) : (b.complete (computeOp i L)).ResultShape i := by
  cases i with
  | desKs =>
    refine ⟨rfl, hb.prim, by simpa [computeOp, computeDesKs] using hb.roundkeys, Block.complete_subkey_lt hb _, ?_⟩
    intro j hj
    exact (storePrefix_above _ _ j j.isLt (by simpa [computeOp, computeDesKs] using hj)).trans (hb.subkeys j)
  | tdesKs =>
    exact ⟨rfl, hb.prim, by simpa [computeOp, computeTdesKs] using hb.roundkeys, Block.complete_subkey_lt hb _⟩
  | aesKe =>
    have hlen := aesKeyExpansion_length_of_valid hv
    have hcount : (b.complete (computeOp .aesKe L)).resultCount = BitVec.ofNat 8 (aesKeyExpansion L.keyBytes).length := rfl
    refine ⟨?_, hb.prim, by simpa [computeOp, computeAesKe] using hb.subkeys, ?_⟩
    · rw [hcount]
      rcases hlen with hl | hl | hl <;> simp [hl]
    · intro r hr
      have hle : (aesKeyExpansion L.keyBytes).length ≤ r.val := by
        rw [hcount, BitVec.toNat_ofNat] at hr
        omega
      exact (storePrefix_above _ _ r r.isLt hle).trans (hb.roundkeys r)
  | permutePc1 => exact Block.complete_primResults hb _
  | permutePc2 => exact Block.complete_primResults hb _
  | rotl28 => exact Block.complete_primResults hb _

/-! ## Each move keeps the invariant -/

theorem Block.inv_reset : Block.reset.Inv where
  status_legal := by decide
  pend_iff_busy := rfl
  pend_valid := nofun
  idle_cmd := fun _ => rfl
  results_only_done := fun _ => Block.noResults_clearResults Block.reset
  done_shape := fun h => absurd h (by decide)
  error_cause := fun code h => absurd h.symm (statusError_ne_idle code)

/-- The cause of an error is read off CMD alone. -/
theorem Block.errorCause_congr {b c : Block} (h : c.cmd = b.cmd) (code : ErrCode) :
    c.ErrorCause code ↔ b.ErrorCause code := by
  unfold Block.ErrorCause
  rw [h]

/-- The invariant speaks of no input register. -/
theorem Block.Inv.storeInput {b b' : Block} {v : Byte} {slot : Slot} (hb : b.Inv) (h : b.storeInput v slot = some b') :
    b'.Inv := by
  obtain ⟨hcmd, hstatus, hcount, hprim, hsub, hround, hpend⟩ := Block.storeInput_frame h
  have hres : b'.sameResults b := ⟨hcount, hprim, hsub, hround⟩
  have hbusy : b'.busy = b.busy := congrArg busyFlag hstatus
  constructor
  case status_legal => exact hstatus ▸ hb.status_legal
  case pend_iff_busy => rw [hpend, hbusy, hb.pend_iff_busy]
  case pend_valid => rw [hpend, hcmd]; exact hb.pend_valid
  case idle_cmd => rw [hstatus, hcmd]; exact hb.idle_cmd
  case results_only_done =>
    rw [hstatus]
    exact fun h => Block.noResults_of_sameResults hres (hb.results_only_done h)
  case done_shape =>
    rw [hstatus, hcmd]
    exact fun h => (hb.done_shape h).imp fun i hi => hi.imp id (Block.resultShape_of_sameResults hres)
  case error_cause =>
    rw [hstatus]
    exact fun code h => (Block.errorCause_congr hcmd code).mpr (hb.error_cause code h)

theorem Block.inv_accept {b : Block} {i : Instr} (hvalid : validateOp i (b.latch i) = .noError) :
    (b.accept (encodeByte i) (b.latch i)).Inv where
  status_legal := (by decide : statusBusy ∈ legalStatuses)
  pend_iff_busy := by simp
  pend_valid := by
    rintro L ⟨⟩
    exact ⟨hvalid, rfl⟩
  idle_cmd := fun h => absurd h (by decide : statusBusy ≠ statusIdle)
  results_only_done := fun _ => Block.noResults_accept _ _ _
  done_shape := fun h => absurd h (by decide : statusBusy ≠ statusDone)
  error_cause := fun code h => absurd h.symm (statusError_ne_busy code)

theorem Block.Rejects.ne_noError {b : Block} {v : Byte} {code : ErrCode} (h : b.Rejects v code) : code ≠ .noError := by
  rcases h with ⟨rfl, _⟩ | ⟨hne, _⟩
  · decide
  · exact hne

/-- The code of a failing issue fits the byte it leaves in CMD (60_exceptions.md R250). -/
theorem Block.Rejects.errorCause {b : Block} {v : Byte} {code : ErrCode} (h : b.Rejects v code) :
    (b.errorEntry v code).ErrorCause code := by
  rcases h with ⟨rfl, hnone⟩ | ⟨hne, i, rfl, rfl⟩
  · exact hnone
  · rcases validateOp_failure i (b.latch i) hne with ⟨hcode, hi⟩ | ⟨hcode, hi⟩
    · exact hcode ▸ ⟨i, hi, rfl⟩
    · exact hcode ▸ ⟨i, hi, rfl⟩

theorem Block.inv_errorEntry {b : Block} {v : Byte} {code : ErrCode} (h : b.Rejects v code) :
    (b.errorEntry v code).Inv where
  status_legal := statusError_legal h.ne_noError
  pend_iff_busy := by simp
  pend_valid := nofun
  idle_cmd := fun hs => absurd hs (statusError_ne_idle code)
  results_only_done := fun _ => Block.noResults_errorEntry _ _ _
  done_shape := fun hs => absurd hs (statusError_ne_done code)
  error_cause := by
    intro code' hs
    cases statusError_injective hs
    exact h.errorCause

theorem Block.Inv.complete {b : Block} {L : Latched} (hb : b.Inv) (hbusy : b.busy = true) (hpend : b.pend = some L) :
    (b.complete (computeOp L.op L)).Inv where
  status_legal := (by decide : statusDone ∈ legalStatuses)
  pend_iff_busy := by simp
  pend_valid := nofun
  idle_cmd := fun h => absurd h (by decide : statusDone ≠ statusIdle)
  results_only_done := fun h => absurd rfl h
  done_shape := by
    intro _
    obtain ⟨hvalid, hcmd⟩ := hb.pend_valid L hpend
    have hnot_done : b.status ≠ statusDone := by
      intro hdone
      simp [Block.busy, hdone] at hbusy
    exact ⟨L.op, hcmd, Block.complete_resultShape (hb.results_only_done hnot_done) L.op hvalid⟩
  error_cause := fun code h => absurd h.symm (statusError_ne_done code)

theorem BlockMove.keeps_inv {b b' : Block} (h : BlockMove b b') (hb : b.Inv) : b'.Inv := by
  cases h with
  | keep => exact hb
  | store hstore => exact hb.storeInput hstore
  | accept _ hvalid => exact Block.inv_accept hvalid
  | fail _ hrej => exact Block.inv_errorEntry hrej
  | complete hbusy hpend => exact hb.complete hbusy hpend
  | reset => exact Block.inv_reset

theorem step_keeps_inv {s t : State} (hs : s.block.Inv) (h : step s = .next t) : t.block.Inv :=
  (step_blockMove h).keeps_inv hs

/-! ## What the invariant says of STATUS -/

theorem Block.Inv.status_cases {b : Block} (hb : b.Inv) :
    b.status = 0x00 ∨ b.status = 0x01 ∨ b.status = 0x02 ∨ b.status = 0x14 ∨ b.status = 0x24 ∨ b.status = 0x34 := by
  simpa [legalStatuses] using hb.status_legal

theorem Block.Inv.busy_iff_pend {b : Block} (hb : b.Inv) : b.status = 0x01 ↔ b.pend.isSome = true := by
  rw [hb.pend_iff_busy]
  exact legalStatuses_busyFlag b.status hb.status_legal

theorem Block.Inv.idle_meaning {b : Block} (hb : b.Inv) (h : b.status = 0x00) : b.cmd = 0x00 ∧ b.NoResults :=
  ⟨hb.idle_cmd h, hb.results_only_done (h ▸ by decide)⟩

/-- An error STATUS stands with no results and with its cause in CMD (60_exceptions.md R250). -/
theorem Block.Inv.error_meaning {b : Block} (hb : b.Inv) {code : ErrCode} (h : b.status = statusError code) :
    b.ErrorCause code ∧ b.NoResults :=
  ⟨hb.error_cause code h, hb.results_only_done (h ▸ statusError_ne_done code)⟩

theorem Block.errorCause_invalidKeyLength {b : Block} (h : b.ErrorCause .invalidKeyLength) :
    b.cmd = 0x01 ∨ b.cmd = 0x02 ∨ b.cmd = 0x03 := by
  simpa [Block.ErrorCause, encodeByte, encodeOp] using h

theorem Block.errorCause_invalidOperand {b : Block} (h : b.ErrorCause .invalidOperand) : b.cmd = 0x05 ∨ b.cmd = 0x06 := by
  simpa [Block.ErrorCause, encodeByte, encodeOp] using h

/-! ## The obligations -/

/-- Settles O4: reset gives every scalar register 0 by definition and every array a constant vector of zeros. -/
theorem resetValues : Obligations.ResetValues := by
  unfold Obligations.ResetValues
  refine ⟨rfl, rfl, rfl, rfl, rfl, rfl, rfl, ?_, ?_, ?_, rfl⟩
  · simp
  · simp
  · simp

/-- Settles O9: the invariant holds at reset and after every step, and each clause follows from it. -/
theorem statusIsOneOfSixValues : Obligations.StatusIsOneOfSixValues := by
  unfold Obligations.StatusIsOneOfSixValues
  intro ok
  have ok_of_inv : ∀ b : Block, b.Inv → ok b := by
    intro b hb
    obtain ⟨busy_done, busy_error, done_error, errcode⟩ := legalStatuses_flags b.status hb.status_legal
    refine ⟨hb.status_cases, busy_done, busy_error, done_error, errcode, hb.idle_meaning, hb.busy_iff_pend, hb.done_shape,
      fun h => ?_, fun h => hb.error_meaning (code := .invalidCommand) h, fun h => ?_⟩
    · exact (hb.error_meaning (code := .invalidKeyLength) h).imp Block.errorCause_invalidKeyLength id
    · exact (hb.error_meaning (code := .invalidOperand) h).imp Block.errorCause_invalidOperand id
  exact ⟨ok_of_inv _ Block.inv_reset, fun s t hs h => ok_of_inv _ (step_keeps_inv hs h)⟩

end Sys2Proof.Machine
end

section
/-! Host accesses (20_memory.md sections 1 to 3): the window's map read both ways, one equation per kind of access, and from
them the three statements on what a host read, a host write and a forbidden access do. -/

namespace Sys2Proof.Machine

/-! ## The window's map (20_memory.md R70) -/

theorem offset_of_slotOf {off : Nat} {slot : Slot} (h : slotOf off = some slot) : slot.offset = off := by
  revert h
  fun_cases slotOf off <;> rintro ⟨⟩ <;> simp only [Slot.offset] <;> omega

theorem slotOf_of_offset {off : Nat} {slot : Slot} (h : slot.offset = off) : slotOf off = some slot := by
  unfold slotOf
  cases slot <;> rw [Slot.offset] at h
  case cmd => subst h; rfl
  case status => subst h; rfl
  case keylen => subst h; rfl
  case resultCount => subst h; rfl
  case shift => subst h; rfl
  -- The other five: the slot's array is the first range that holds the offset.
  all_goals
    repeat rw [if_neg (by omega)]
    repeat rw [dif_neg (by omega)]
    rw [dif_pos (by omega)]
  case operand k => exact congrArg some (congrArg Slot.operand (Fin.ext (by dsimp only; omega)))
  case primResult k => exact congrArg some (congrArg Slot.primResult (Fin.ext (by dsimp only; omega)))
  case key j => exact congrArg some (congrArg Slot.key (Fin.ext (by dsimp only; omega)))
  case subkey j b =>
    refine congrArg some (congrArg₂ Slot.subkey (Fin.ext ?_) (Fin.ext ?_)) <;> dsimp only <;> omega
  case roundkey r k =>
    refine congrArg some (congrArg₂ Slot.roundkey (Fin.ext ?_) (Fin.ext ?_)) <;> dsimp only <;> omega

@[simp] theorem slotOf_offset (slot : Slot) : slotOf slot.offset = some slot := slotOf_of_offset rfl

theorem slotOf_eq_none_iff (off : Nat) : slotOf off = none ↔ reservedOffset off ∨ 0x400 ≤ off := by
  unfold reservedOffset
  fun_cases slotOf off <;> simp only [reduceCtorEq, false_iff, true_iff] <;> omega

theorem lt_windowSize_of_slotOf {off : Nat} {slot : Slot} (h : slotOf off = some slot) : off < 0x400 := by
  by_contra hge
  simp [(slotOf_eq_none_iff off).mpr (.inr (by omega))] at h

theorem Slot.isResult_iff (slot : Slot) : slot.isResult = true ↔ resultOffset slot.offset := by
  unfold resultOffset
  cases slot <;> simp [Slot.isResult, Slot.offset] <;> omega

theorem isResult_iff_of_slotOf {off : Nat} {slot : Slot} (h : slotOf off = some slot) :
    slot.isResult = true ↔ resultOffset off := offset_of_slotOf h ▸ slot.isResult_iff

theorem exists_slotOf_of_resultOffset {off : Nat} (h : resultOffset off) :
    ∃ slot, slotOf off = some slot ∧ slot.isResult = true := by
  cases hslot : slotOf off with
  | some slot => exact ⟨slot, rfl, (isResult_iff_of_slotOf hslot).mpr h⟩
  | none =>
    have hout := (slotOf_eq_none_iff off).mp hslot
    unfold resultOffset at h
    unfold reservedOffset at hout
    omega

/-- Every offset of the window is CMD's, an input's, a read-only register's or reserved (20_memory.md R63, R66). -/
theorem window_offset_cases {off : Nat} (h : off < 0x400) :
    off = 0x000 ∨ inputOffset off ∨ (off = 0x001 ∨ resultOffset off) ∨ reservedOffset off := by
  unfold inputOffset resultOffset reservedOffset
  omega

theorem reservedOffset_lt {off : Nat} (h : reservedOffset off) : off < 0x400 := by
  unfold reservedOffset at h
  omega

/-! ## Stores to the input registers (20_memory.md R63) -/

/-- The mask of `setBeByte` clears exactly the eight bits that the shifted byte then fills. -/
theorem getLsbD_setBeByte {w : Nat} (x : BitVec w) (k : Nat) (v : Byte) (hk : 8 * k + 8 ≤ w) (n : Nat) :
    (setBeByte x k v).getLsbD n =
      if w - 8 - 8 * k ≤ n ∧ n < w - 8 * k then v.getLsbD (n - (w - 8 - 8 * k)) else x.getLsbD n := by
  have hff (m : Nat) : (0xFF#8).getLsbD m = decide (m < 8) := BitVec.getLsbD_allOnes (v := 8)
  generalize hlow : w - 8 - 8 * k = low
  have hhigh : w - 8 * k = low + 8 := by omega
  simp only [setBeByte, hlow, hhigh, BitVec.getLsbD_or, BitVec.getLsbD_and, BitVec.getLsbD_not,
    BitVec.getLsbD_shiftLeft, BitVec.getLsbD_setWidth, hff]
  by_cases hbelow : n < low
  · simpa [hbelow, Nat.not_le.mpr hbelow] using x.lt_of_getLsbD
  by_cases hbyte : n < low + 8
  · have hw : n < w := by omega
    have hdist : n - low < w := by omega
    have hdist8 : n - low < 8 := by omega
    simp [*]
  · have hv : v.getLsbD (n - low) = false := BitVec.getLsbD_of_ge v _ (by omega)
    have hdist8 : 8 ≤ n - low := by omega
    simpa [*] using x.lt_of_getLsbD

theorem Block.storeInput_readOnly {slot : Slot} (h : slot = .status ∨ slot.isResult = true) (b : Block) (v : Byte) :
    b.storeInput v slot = none := by
  rcases h with rfl | h
  · rfl
  · cases slot <;> simp_all [Slot.isResult, Block.storeInput]

/-! ## One equation per kind of host access (20_memory.md R61 to R66) -/

theorem selects_window {off : Nat} (h : off < 0x400) (base bits : Nat) : selects base (base + off) bits = true := by
  have hlow : base < base + off + spanBytes bits := by unfold spanBytes; omega
  have hhigh : base + off < base + windowSize := by unfold windowSize; omega
  simp [selects, hlow, hhigh]

theorem step_read (s : State) (addr bits : Nat) :
    step (s.upcoming (.act (.read addr bits))) = hostRead addr bits s := rfl

theorem step_write (s : State) (addr bits : Nat) (v : Byte) :
    step (s.upcoming (.act (.write addr bits v))) = hostWrite addr bits v s := rfl

theorem step_hostReads_slot {off : Nat} {slot : Slot} (h : slotOf off = some slot) (s : State) :
    step (s.hostReads off) =
      if s.block.busy && slot.isResult then .next (s.respondFree off) else .next (s.respond off (s.block.readSlot slot)) := by
  simp [State.hostReads, step_read, hostRead, selects_window (lt_windowSize_of_slotOf h), h]

theorem step_hostWrites_slot {off : Nat} {slot : Slot} (h : slotOf off = some slot) (s : State) (v : Byte) :
    step (s.hostWrites off v) = writeSlot off slot v s := by
  simp [State.hostWrites, step_write, hostWrite, selects_window (lt_windowSize_of_slotOf h), h]

theorem step_hostReads_reserved {off : Nat} (h : reservedOffset off) (s : State) :
    step (s.hostReads off) = .fault (.busError .reservedOffset off) := by
  simp [State.hostReads, step_read, hostRead, selects_window (reservedOffset_lt h),
    (slotOf_eq_none_iff off).mpr (.inl h)]

theorem step_hostWrites_reserved {off : Nat} (h : reservedOffset off) (s : State) (v : Byte) :
    step (s.hostWrites off v) = .fault (.busError .reservedOffset off) := by
  simp [State.hostWrites, step_write, hostWrite, selects_window (reservedOffset_lt h),
    (slotOf_eq_none_iff off).mpr (.inl h)]

theorem step_read_width {off bits : Nat} (h : off < 0x400) (hbits : bits ≠ 8) (s : State) :
    step (s.upcoming (.act (.read (s.kseBase + off) bits))) = .fault (.busError .accessWidth off) := by
  simp [step_read, hostRead, selects_window h, hbits]

theorem step_write_width {off bits : Nat} (h : off < 0x400) (hbits : bits ≠ 8) (s : State) (v : Byte) :
    step (s.upcoming (.act (.write (s.kseBase + off) bits v))) = .fault (.busError .accessWidth off) := by
  simp [step_write, hostWrite, selects_window h, hbits]

theorem step_hostWrites_input {off : Nat} {slot : Slot} {v : Byte} {s : State} {b : Block} (h : slotOf off = some slot)
    (hstore : s.block.storeInput v slot = some b) : step (s.hostWrites off v) = .next (s.withBlock b) := by
  have hcmd : slot ≠ .cmd := by rintro rfl; cases hstore
  rw [step_hostWrites_slot h, writeSlot, if_neg hcmd, hstore]

theorem step_hostWrites_readOnly {off : Nat} (h : off = 0x001 ∨ resultOffset off) (s : State) (v : Byte) :
    step (s.hostWrites off v) = .fault (.busError .readOnlyRegister off) := by
  obtain ⟨slot, hslot, hkind⟩ : ∃ slot, slotOf off = some slot ∧ (slot = .status ∨ slot.isResult = true) := by
    rcases h with rfl | hres
    · exact ⟨.status, rfl, .inl rfl⟩
    · exact (exists_slotOf_of_resultOffset hres).imp fun slot hs => hs.imp id .inr
  have hcmd : slot ≠ .cmd := by rintro rfl; simp [Slot.isResult] at hkind
  rw [step_hostWrites_slot hslot, writeSlot, if_neg hcmd, Block.storeInput_readOnly hkind]

/-! ## Issues (40_commands.md R121, R126) -/

theorem decodeByte_of_commandOf {v : Byte} {i : Instr} (h : commandOf v = some i) : decodeByte v = .ok i := by
  cases hd : decodeByte v <;> simp_all [commandOf]

theorem decodeByte_of_commandOf_none {v : Byte} (h : commandOf v = none) : ∃ e, decodeByte v = .error e := by
  cases hd : decodeByte v <;> simp_all [commandOf]

theorem step_hostWrites_cmd (s : State) (v : Byte) : step (s.hostWrites 0x000 v) = issueByte v s :=
  (step_hostWrites_slot (slotOf_offset .cmd) s v).trans (if_pos rfl)

theorem issueByte_busy {s : State} (h : s.block.busy = true) (v : Byte) : issueByte v s = .next s := by
  simp [issueByte, h]

theorem issueByte_command {s : State} {v : Byte} {i : Instr} (h : s.block.busy = false) (hv : commandOf v = some i) :
    issueByte v s = exec i s := by
  simp [issueByte, h, decodeByte_of_commandOf hv]

theorem issueByte_illegal {s : State} {v : Byte} (h : s.block.busy = false) (hv : commandOf v = none) :
    issueByte v s = .next (s.withBlock (s.block.errorEntry v .invalidCommand)) := by
  obtain ⟨e, he⟩ := decodeByte_of_commandOf_none hv
  simp [issueByte, h, he]

/-! ## The obligations -/

/-- Settles O14: a reserved offset has no slot, a read-only slot has no store, and the width is checked before both. -/
theorem forbiddenAccessRaisesBusError : Obligations.ForbiddenAccessRaisesBusError := by
  unfold Obligations.ForbiddenAccessRaisesBusError
  intro s v off
  refine ⟨fun hres => ?_, fun hro => step_hostWrites_readOnly hro s v, fun hlt bits hbits => ?_⟩
  · exact ⟨step_hostReads_reserved hres s, step_hostWrites_reserved hres s v⟩
  · exact ⟨step_read_width hlt hbits s, step_write_width hlt hbits s v⟩

/-- Settles O12: the slot of the offset, if it has one, decides the read; it is a result's exactly at a result offset. -/
theorem hostReadReturnsTheRegisterByte : Obligations.HostReadReturnsTheRegisterByte := by
  unfold Obligations.HostReadReturnsTheRegisterByte
  intro s off hlt
  refine ⟨fun v hread hfree => ?_, fun hbusy hres => ?_, fun hread => ?_⟩
  · obtain ⟨slot, hslot, rfl⟩ := Option.map_eq_some_iff.mp hread
    rw [← isResult_iff_of_slotOf hslot] at hfree
    exact ⟨s.respond off (s.block.readSlot slot), by simp [step_hostReads_slot hslot, hfree], rfl, rfl, rfl, rfl, rfl, rfl⟩
  · obtain ⟨slot, hslot, hkind⟩ := exists_slotOf_of_resultOffset hres
    exact ⟨s.respondFree off, by simp [step_hostReads_slot hslot, hbusy, hkind], rfl, rfl, rfl, rfl, rfl, rfl⟩
  · have hnone : slotOf off = none := Option.map_eq_none_iff.mp hread
    have hres : reservedOffset off := ((slotOf_eq_none_iff off).mp hnone).resolve_right (by omega)
    exact ⟨_, step_hostReads_reserved hres s⟩

/-- Settles O13: CMD's slot issues, each input's slot has its store, and every other offset is read-only or reserved. -/
theorem hostWriteActsByItsDestination : Obligations.HostWriteActsByItsDestination := by
  unfold Obligations.HostWriteActsByItsDestination
  intro s v
  refine ⟨fun hbusy => ?_, fun hidle i hv => ?_, fun hidle hv => ?_, step_hostWrites_input (slotOf_offset .keylen) rfl,
    step_hostWrites_input (slotOf_offset .shift) rfl, fun k => ?_, fun j => ?_, fun off hlt hcmd hinput => ?_⟩
  · rw [step_hostWrites_cmd, issueByte_busy hbusy]
  · rw [step_hostWrites_cmd, issueByte_command hidle hv]
  · rw [step_hostWrites_cmd, issueByte_illegal hidle hv]
  · refine ⟨_, step_hostWrites_input (slotOf_offset (.operand k)) rfl, fun n => ?_⟩
    exact getLsbD_setBeByte s.block.operand k v (by omega) n
  · refine ⟨_, step_hostWrites_input (slotOf_offset (.key j)) rfl, fun j' => ?_⟩
    simp [Vector.getElem_set, Fin.ext_iff, eq_comm]
  · rcases window_offset_cases hlt with h | h | h | h
    · exact absurd h hcmd
    · exact absurd h hinput
    · exact ⟨_, step_hostWrites_readOnly h s v⟩
    · exact ⟨_, step_hostWrites_reserved h s v⟩

end Sys2Proof.Machine
end

section
/-! The encoding of commands (30_encoding.md R91 to R94): the bytes that spell a command are the six encoded ones, an
illegal byte is one whose fields spell none, and from these the family's three statements. -/

namespace Sys2Proof.Machine

/-! ## The command bytes (30_encoding.md R91, R92) -/

theorem commandOf_eq_some_iff (v : Byte) (i : Instr) : commandOf v = some i ↔ v = encodeByte i := by
  constructor
  · intro h
    exact eq_encodeByte_of_decodeByte (decodeByte_of_commandOf h)
  · rintro rfl
    simp [commandOf, decodeByte_encodeByte]

@[simp] theorem commandOf_encodeByte (i : Instr) : commandOf (encodeByte i) = some i :=
  (commandOf_eq_some_iff _ i).mpr rfl

theorem commandOf_eq_none_of_forall_ne {v : Byte} (h : ∀ i, v ≠ encodeByte i) : commandOf v = none :=
  Option.eq_none_iff_forall_ne_some.mpr fun i hi => h i ((commandOf_eq_some_iff v i).mp hi)

@[simp] theorem rsvdField_encodeByte (i : Instr) : rsvdField (encodeByte i) = 0 := by cases i <;> rfl

@[simp] theorem opField_encodeByte (i : Instr) : opField (encodeByte i) = encodeOp i := by cases i <;> rfl

theorem encodeOp_bounds (i : Instr) : 1 ≤ (encodeOp i).toNat ∧ (encodeOp i).toNat ≤ 6 := by cases i <;> decide

/-- A byte with a field outside the opcode map (30_encoding.md R92) spells no command: each command's byte has OP from 1
to 6 and RSVD = 0. -/
theorem commandOf_eq_none_of_illegal {v : Byte}
    (h : (opField v).toNat = 0 ∨ 7 ≤ (opField v).toNat ∨ rsvdField v ≠ 0) : commandOf v = none := by
  refine commandOf_eq_none_of_forall_ne ?_
  rintro i rfl
  have hbounds := encodeOp_bounds i
  rw [opField_encodeByte, rsvdField_encodeByte] at h
  rcases h with hzero | hseven | hrsvd
  · omega
  · omega
  · exact hrsvd rfl

/-! ## Decoding a sequence of bytes (30_encoding.md R94) -/

theorem decode_cons (v : Byte) (rest : List Byte) : decode (v :: rest) = (decodeByte v).map fun i => (i, rest) := by
  rw [decode]
  cases decodeByte v <;> rfl

theorem decode_encode_append (i : Instr) (rest : List Byte) : decode (encode i ++ rest) = .ok (i, rest) := by
  rw [encode, List.singleton_append, decode_cons, decodeByte_encodeByte]
  rfl

/-! ## The error code of an error STATUS (60_exceptions.md R250) -/

@[simp] theorem errCodeField_statusError (code : ErrCode) : errCodeField (statusError code) = code.number := by
  cases code <;> decide

/-! ## The obligations -/

/-- Settles O3: an illegal byte spells no command, so its issue is the error entry with INVALID_COMMAND. -/
theorem illegalByteFailsTheIssue : Obligations.IllegalByteFailsTheIssue := by
  unfold Obligations.IllegalByteFailsTheIssue
  intro illegal
  refine ⟨by decide +kernel, fun s v hv hidle => ?_⟩
  have hnone : commandOf v = none := commandOf_eq_none_of_illegal (by simpa [illegal, or_assoc] using hv)
  refine ⟨s.withBlock (s.block.errorEntry v .invalidCommand), ?_, ⟨rfl, rfl, rfl, rfl, rfl⟩, rfl,
    s.block.noResults_errorEntry v .invalidCommand, rfl, errCodeField_statusError .invalidCommand, rfl,
    ⟨rfl, rfl, rfl, rfl⟩⟩
  rw [step_hostWrites_cmd, issueByte_illegal hidle hnone]

/-- Settles O1: a command is its one byte, which `decodeByte` takes back, and `decode` looks at the first byte alone. -/
theorem everyCommandIsOneByte : Obligations.EveryCommandIsOneByte :=
  ⟨fun _ => rfl, decode_encode_append, decode_cons⟩

/-- Settles O2: the six bytes are the encoded commands, and a byte that spells a command is the encoded one. -/
theorem opcodeMapIsExact : Obligations.OpcodeMapIsExact := by
  unfold Obligations.OpcodeMapIsExact
  refine ⟨commandOf_encodeByte .desKs, commandOf_encodeByte .tdesKs, commandOf_encodeByte .aesKe,
    commandOf_encodeByte .permutePc1, commandOf_encodeByte .permutePc2, commandOf_encodeByte .rotl28, fun v hv => ?_⟩
  refine commandOf_eq_none_of_forall_ne ?_
  rintro i rfl
  cases i <;> exact absurd (by decide) hv

end Sys2Proof.Machine
end

section
/-! The life of a command (40_commands.md): validation, issue and completion, each said once for every byte or command; what
host accesses leave alone while BUSY; and from these the family's six statements. -/

namespace Sys2Proof.Machine

/-! ## Validation (40_commands.md R123) -/

/-- The bytes that spell no command, by number: RSVD nonzero, or OP 0 or at least 7 (30_encoding.md R92). -/
theorem commandOf_eq_none_iff (v : Byte) :
    commandOf v = none ↔ 16 ≤ v.toNat ∨ v.toNat % 16 = 0 ∨ 7 ≤ v.toNat % 16 := by
  revert v
  decide +kernel

@[simp] theorem validate_encodeByte (i : Instr) (L : Latched) : validate (encodeByte i) L = validateOp i L := by
  simp [validate, decodeByte_encodeByte]

theorem validate_of_commandOf_none {v : Byte} (h : commandOf v = none) (L : Latched) : validate v L = .invalidCommand := by
  obtain ⟨e, he⟩ := decodeByte_of_commandOf_none h
  simp [validate, he]

/-- Validation reads the command from the byte, never from the latch (40_commands.md R123). -/
theorem validate_latch_congr (v : Byte) (b : Block) (i j : Instr) : validate v (b.latch i) = validate v (b.latch j) := by
  cases hv : commandOf v with
  | none => rw [validate_of_commandOf_none hv, validate_of_commandOf_none hv]
  | some k =>
    obtain rfl := (commandOf_eq_some_iff v k).mp hv
    rw [validate_encodeByte, validate_encodeByte]
    cases k <;> rfl

/-- The bits of a register from `k` up are nonzero exactly if its value reaches `2 ^ k`. -/
theorem extractLsb'_high_ne_zero_iff (x : Reg64) {k : Nat} (hk : k ≤ 64) :
    x.extractLsb' k (64 - k) ≠ 0 ↔ 2 ^ k ≤ x.toNat := by
  have hpow : 2 ^ (64 - k) * 2 ^ k = 2 ^ 64 := by rw [← pow_add, Nat.sub_add_cancel hk]
  have hlt : x.toNat / 2 ^ k < 2 ^ (64 - k) := Nat.div_lt_of_lt_mul (by rw [mul_comm, hpow]; exact x.isLt)
  rw [ne_eq, ← BitVec.toNat_inj, BitVec.extractLsb'_toNat, Nat.shiftRight_eq_div_pow, Nat.mod_eq_of_lt hlt]
  simp

theorem checkKeyLength_eq (accepted : List Nat) (L : Latched) :
    checkKeyLength accepted L = if L.keylen.toNat ∉ accepted then .invalidKeyLength else .noError :=
  (ite_not _ _ _).symm

theorem validatePermutePc2_eq (L : Latched) :
    validatePermutePc2 L = if 2 ^ 56 ≤ L.operand.toNat then .invalidOperand else .noError := by
  simp only [validatePermutePc2, Latched.above56, extractLsb'_high_ne_zero_iff L.operand (k := 56) (by decide)]

theorem validateRotl28_eq (L : Latched) :
    validateRotl28 L =
      if (L.shift.toNat ≠ 1 ∧ L.shift.toNat ≠ 2) ∨ 2 ^ 28 ≤ L.operand.toNat then .invalidOperand else .noError := by
  simp only [validateRotl28, Latched.above28, extractLsb'_high_ne_zero_iff L.operand (k := 28) (by decide), BitVec.toNat_ne]
  rfl

/-! ## Issue (40_commands.md R121, R125) -/

/-- An issue that passes validation latches the inputs for the command its byte spells. -/
theorem issueByte_valid {s : State} {v : Byte} {i : Instr} (hidle : s.block.busy = false)
    (hvalid : validate v (s.block.latch i) = .noError) :
    ∃ j, v = encodeByte j ∧ issueByte v s = .next (s.withBlock (s.block.accept v (s.block.latch j))) := by
  rcases issueByte_accepted (v := v) hidle with ⟨j, hj, _, ho⟩ | ⟨code, hne, _, ⟨rfl, hnone⟩ | ⟨j, rfl, hcode⟩⟩
  · exact ⟨j, hj, ho⟩
  · rw [validate_of_commandOf_none hnone] at hvalid
    cases hvalid
  · rw [validate_latch_congr _ _ i j, validate_encodeByte, hcode] at hvalid
    exact absurd hvalid hne

/-- An issue that fails validation is the error entry with validation's code. -/
theorem issueByte_failing {s : State} {v : Byte} {i : Instr} (hidle : s.block.busy = false)
    (hfail : validate v (s.block.latch i) ≠ .noError) :
    issueByte v s = .next (s.withBlock (s.block.errorEntry v (validate v (s.block.latch i)))) := by
  rcases issueByte_accepted (v := v) hidle with ⟨j, rfl, hvalid, _⟩ | ⟨code, _, ho, ⟨rfl, hnone⟩ | ⟨j, rfl, rfl⟩⟩
  · rw [validate_latch_congr _ _ i j, validate_encodeByte] at hfail
    exact absurd hvalid hfail
  · rw [validate_of_commandOf_none hnone, ho]
  · rw [validate_latch_congr _ _ i j, validate_encodeByte, ho]

/-! ## Completion (40_commands.md R127) -/

theorem step_engineMoves (s : State) : step s.engineMoves = engineTurn s := rfl

theorem engineTurn_idle {s : State} (h : s.block.busy = false) : engineTurn s = .next s := by
  simp [engineTurn, h]

theorem exec_complete {s : State} {L : Latched} (hbusy : s.block.busy = true) (hpend : s.block.pend = some L) :
    exec L.op s = .next (s.withBlock (s.block.complete (computeOp L.op L))) := by
  rw [exec_eq, commandStep_complete hbusy hpend rfl]

theorem engineTurn_complete {s : State} {L : Latched} (hbusy : s.block.busy = true) (hpend : s.block.pend = some L) :
    engineTurn s = .next (s.withBlock (s.block.complete (computeOp L.op L))) := by
  simp [engineTurn, hbusy, hpend, exec_complete hbusy hpend]

/-- Both cases of `storePrefix`, with the list read by default. -/
theorem storePrefix_getD {α : Type} {n : Nat} (xs : List α) (v : Vector α n) (d : α) (j : Fin n) :
    (storePrefix xs v)[j] = if j.val < xs.length then xs.getD j d else v[j] := by
  by_cases hj : j.val < xs.length
  · simpa [hj] using storePrefix_below xs v j j.isLt hj
  · simpa [hj] using storePrefix_above xs v j j.isLt (by omega)

/-- SUBKEY after a completion: each subkey given is zero-extended, each other entry kept. -/
theorem Block.complete_subkey_getD (b : Block) (r : Results) (j : Fin 48) :
    (b.complete r).subkey[j] =
      if j.val < r.subkeys.length then (r.subkeys.getD j 0).setWidth 64 else b.subkey[j] := by
  rw [Block.complete_subkey, storePrefix_getD _ _ (BitVec.setWidth 64 (0 : Subkey)), List.length_map, List.getD_map]

theorem Block.complete_roundkey_getD (b : Block) (r : Results) (k : Fin 15) :
    (b.complete r).roundkey[k] = if k.val < r.roundkeys.length then r.roundkeys.getD k 0 else b.roundkey[k] :=
  storePrefix_getD _ _ 0 k

/-- Three lists of 16 put together, read by default. -/
theorem getD_append_three {α : Type} {xs ys zs : List α} (hx : xs.length = 16) (hy : ys.length = 16) (j : Nat) (d : α) :
    (xs ++ ys ++ zs).getD j d =
      if j < 16 then xs.getD j d else if j < 32 then ys.getD (j - 16) d else zs.getD (j - 32) d := by
  by_cases h16 : j < 16
  · rw [if_pos h16, List.append_assoc, List.getD_append _ _ _ _ (by omega)]
  rw [if_neg h16]
  by_cases h32 : j < 32
  · rw [if_pos h32, List.getD_append _ _ _ _ (by simp; omega), List.getD_append_right _ _ _ _ (by omega), hx]
  · rw [if_neg h32, List.getD_append_right _ _ _ _ (by simp; omega), List.length_append, hx, hy]

/-- SUBKEY after DES_KS: its 16 subkeys, then the entries before (42_des.md R173). -/
theorem Block.complete_desKs_subkey (b : Block) (L : Latched) (j : Fin 48) :
    (b.complete (computeDesKs L)).subkey[j] =
      if j.val < 16 then ((desKeySchedule L.desKey).getD j 0).setWidth 64 else b.subkey[j] := by
  have hlen : (computeDesKs L).subkeys.length = 16 := desKeySchedule_length _
  rw [Block.complete_subkey_getD, hlen]
  rfl

/-- SUBKEY after TDES_KS: its three schedules of 16 subkeys one after the other (43_tdes.md R192). -/
theorem Block.complete_tdesKs_subkey (b : Block) (L : Latched) (j : Fin 48) :
    let (s1, s2, s3) := tripleDesKeySchedule L.keyBytes
    (b.complete (computeTdesKs L)).subkey[j] =
      (if j.val < 16 then s1.getD j 0 else if j.val < 32 then s2.getD (j - 16) 0 else s3.getD (j - 32) 0).setWidth 64 := by
  rcases hsplit : tdesSplit L.keyBytes with ⟨k1, k2, k3⟩
  have hsub : (computeTdesKs L).subkeys = desKeySchedule k1 ++ desKeySchedule k2 ++ desKeySchedule k3 := by
    simp [computeTdesKs, tripleDesKeySchedule, hsplit]
  simp only [tripleDesKeySchedule, hsplit]
  rw [Block.complete_subkey_getD, hsub, if_pos (by simp), getD_append_three (by simp) (by simp)]

/-- There are at most 14 rounds (44_aes.md R224). -/
theorem aesRounds_le (nk : Nat) : aesRounds nk ≤ 14 := by
  unfold aesRounds
  split_ifs <;> omega

/-- AES_KE's RESULT_COUNT does not wrap (44_aes.md R225). -/
theorem computeAesKe_count_toNat (L : Latched) : (computeAesKe L).count.toNat = (computeAesKe L).roundkeys.length := by
  have hle := aesRounds_le (L.keyBytes.length / 4)
  simp only [computeAesKe, aesKeyExpansion_length, BitVec.toNat_ofNat]
  omega

theorem Latched.source56_eq_setWidth (L : Latched) : L.source56 = L.operand.setWidth 56 :=
  BitVec.eq_of_toNat_eq rfl

theorem Latched.value28_eq_setWidth (L : Latched) : L.value28 = L.operand.setWidth 28 :=
  BitVec.eq_of_toNat_eq rfl

theorem Block.Inv.busy_of_pend {b : Block} {L : Latched} (hb : b.Inv) (hpend : b.pend = some L) : b.busy = true := by
  rw [← hb.pend_iff_busy, hpend, Option.isSome_some]

/-- A BUSY block holds no results: they were cleared at the issue (40_commands.md R122). -/
theorem Block.Inv.noResults_of_busy {b : Block} (hb : b.Inv) (hbusy : b.busy = true) : b.NoResults := by
  refine hb.results_only_done fun hdone => ?_
  simp [Block.busy, hdone] at hbusy

/-- Completions with the same results, of blocks whose result registers are clear, leave the same results. -/
theorem Block.sameResults_complete {b c : Block} (hb : b.NoResults) (hc : c.NoResults) (r : Results) :
    (b.complete r).sameResults (c.complete r) := by
  have hsub : b.subkey = c.subkey := Vector.ext fun j hj => (hb.subkeys ⟨j, hj⟩).trans (hc.subkeys ⟨j, hj⟩).symm
  have hround : b.roundkey = c.roundkey :=
    Vector.ext fun j hj => (hb.roundkeys ⟨j, hj⟩).trans (hc.roundkeys ⟨j, hj⟩).symm
  simp [Block.sameResults, hsub, hround, hb.prim, hc.prim]

/-! ## Host accesses during BUSY (40_commands.md R126, R128) -/

/-- What a host access during BUSY leaves alone: the window's place, STATUS, PEND and the results. -/
structure State.KeepsCommand (s t : State) : Prop where
  base : t.kseBase = s.kseBase
  status : t.block.status = s.block.status
  pend : t.block.pend = s.block.pend
  results : t.block.sameResults s.block

theorem State.KeepsCommand.of_block {s t : State} (hbase : t.kseBase = s.kseBase) (hblock : t.block = s.block) :
    s.KeepsCommand t :=
  ⟨hbase, hblock ▸ rfl, hblock ▸ rfl, hblock ▸ ⟨rfl, rfl, rfl, rfl⟩⟩

theorem State.KeepsCommand.trans {s t u : State} (hst : s.KeepsCommand t) (htu : t.KeepsCommand u) : s.KeepsCommand u where
  base := htu.base.trans hst.base
  status := htu.status.trans hst.status
  pend := htu.pend.trans hst.pend
  results := by
    obtain ⟨hcount, hprim, hsub, hround⟩ := hst.results
    obtain ⟨hcount', hprim', hsub', hround'⟩ := htu.results
    exact ⟨hcount'.trans hcount, hprim'.trans hprim, hsub'.trans hsub, hround'.trans hround⟩

theorem State.KeepsCommand.busy {s t : State} (h : s.KeepsCommand t) : t.block.busy = s.block.busy :=
  congrArg busyFlag h.status

theorem State.KeepsCommand.storeInput {s : State} {v : Byte} {slot : Slot} {b : Block}
    (h : s.block.storeInput v slot = some b) : s.KeepsCommand (s.withBlock b) := by
  obtain ⟨_, hstatus, hcount, hprim, hsub, hround, hpend⟩ := Block.storeInput_frame h
  exact ⟨rfl, hstatus, hpend, hcount, hprim, hsub, hround⟩

/-- A slot other than CMD that has no store is read-only (20_memory.md R63). -/
theorem Block.readOnly_of_storeInput_none {b : Block} {v : Byte} {slot : Slot} (h : b.storeInput v slot = none)
    (hcmd : slot ≠ .cmd) : slot = .status ∨ slot.isResult = true := by
  cases slot <;> simp_all [Block.storeInput, Slot.isResult]

theorem hostRead_keepsCommand {s : State} {addr bits : Nat}
    (hsafe : (Action.read addr bits).isBusError s.kseBase = false) :
    ∃ t, hostRead addr bits s = .next t ∧ t.schedule = s.schedule ∧ s.KeepsCommand t := by
  rcases hostRead_cases (addr := addr) (bits := bits) (s := s) rfl with
    ⟨_, ho⟩ | ⟨hsel, hbits, _⟩ | ⟨hsel, _, hslot, _⟩ | ⟨_, _, _, _, ⟨_, _, ho⟩ | ⟨_, ho⟩⟩
  · exact ⟨_, ho, rfl, .of_block rfl rfl⟩
  · simp [Action.isBusError, hsel, hbits] at hsafe
  · simp [Action.isBusError, hsel, hslot] at hsafe
  · exact ⟨_, ho, rfl, .of_block rfl rfl⟩
  · exact ⟨_, ho, rfl, .of_block rfl rfl⟩

theorem hostWrite_keepsCommand {s : State} {addr bits : Nat} {v : Byte} (hbusy : s.block.busy = true)
    (hsafe : (Action.write addr bits v).isBusError s.kseBase = false) :
    ∃ t, hostWrite addr bits v s = .next t ∧ t.schedule = s.schedule ∧ s.KeepsCommand t := by
  rcases hostWrite_cases (addr := addr) (bits := bits) (v := v) (s := s) rfl with
    ⟨_, ho⟩ | ⟨hsel, hbits, _⟩ | ⟨hsel, _, hslot, _⟩ | ⟨_, _, _, hissue⟩ |
      ⟨hsel, _, slot, hslot, hcmd, ⟨b, hstore, ho⟩ | ⟨hstore, _⟩⟩
  · exact ⟨_, ho, rfl, .of_block rfl rfl⟩
  · simp [Action.isBusError, hsel, hbits] at hsafe
  · simp [Action.isBusError, hsel, hslot] at hsafe
  · exact ⟨s, hissue.symm.trans (issueByte_busy hbusy v), rfl, .of_block rfl rfl⟩
  · exact ⟨_, ho, rfl, .storeInput hstore⟩
  · rcases Block.readOnly_of_storeInput_none hstore hcmd with rfl | hres
    · simp [Action.isBusError, hsel, hslot] at hsafe
    · simp [Action.isBusError, hsel, hslot, hres] at hsafe

/-- A host access without a BusError, during BUSY, leaves the command in progress. -/
theorem handle_hostAccess_keepsCommand {s : State} {e : Event} (hbusy : s.block.busy = true)
    (haccess : e.isHostAccess = true) (hsafe : e.isBusError s.kseBase = false) :
    ∃ t, handle e s = .next t ∧ t.schedule = s.schedule ∧ s.KeepsCommand t := by
  cases e with
  | reset overridden => cases haccess
  | act a =>
    cases a with
    | read addr bits => exact hostRead_keepsCommand hsafe
    | write addr bits v => exact hostWrite_keepsCommand hbusy hsafe
    | engine => cases haccess

theorem step_of_schedule_cons {s : State} {e : Event} {rest : List Event} (h : s.schedule = e :: rest) :
    step s = handle e s.popped := by
  simp [step, h]

theorem step_hostAccess_keepsCommand {s : State} {e : Event} {rest : List Event} (hsched : s.schedule = e :: rest)
    (hbusy : s.block.busy = true) (haccess : e.isHostAccess = true) (hsafe : e.isBusError s.kseBase = false) :
    ∃ t, step s = .next t ∧ t.schedule = rest ∧ s.KeepsCommand t := by
  obtain ⟨t, ht, htsched, hbase, hstatus, hpend, hresults⟩ :=
    handle_hostAccess_keepsCommand (s := s.popped) hbusy haccess hsafe
  exact ⟨t, (step_of_schedule_cons hsched).trans ht, by simp [htsched, hsched], hbase, hstatus, hpend, hresults⟩

/-- Any number of host accesses without a BusError, during BUSY, leave the command in progress. -/
theorem runSteps_hostAccesses {evs rest : List Event} {s : State} (hsched : s.schedule = evs ++ rest)
    (hbusy : s.block.busy = true) (hsafe : ∀ e ∈ evs, e.isHostAccess = true ∧ e.isBusError s.kseBase = false) :
    ∃ t, runSteps evs.length s = .next t ∧ t.schedule = rest ∧ s.KeepsCommand t := by
  induction evs generalizing s with
  | nil => exact ⟨s, rfl, hsched, .of_block rfl rfl⟩
  | cons e evs ih =>
    obtain ⟨haccess, he⟩ := hsafe e List.mem_cons_self
    obtain ⟨u, hu, husched, hsu⟩ := step_hostAccess_keepsCommand hsched hbusy haccess he
    obtain ⟨t, ht, htsched, hut⟩ := ih husched (hsu.busy.trans hbusy)
      fun e' he' => hsu.base ▸ hsafe e' (List.mem_cons_of_mem e he')
    exact ⟨t, (runSteps_next _ hu).trans ht, htsched, hsu.trans hut⟩

/-- Host accesses during BUSY and then the engine's move complete the command in progress, on cleared results. -/
theorem runSteps_hostAccesses_engine {evs : List Event} {s : State} {L : Latched} (hinv : s.block.Inv)
    (hpend : s.block.pend = some L)
    (hsafe : ∀ e ∈ evs, e.isHostAccess = true ∧ e.isBusError s.kseBase = false) :
    ∃ (t : State) (b : Block), runSteps (evs.length + 1) { s with schedule := evs ++ [.act .engine] } = .next t ∧
      b.NoResults ∧ t.block = b.complete (computeOp L.op L) := by
  have hbusy := hinv.busy_of_pend hpend
  obtain ⟨u, hu, husched, hkeep⟩ :=
    runSteps_hostAccesses (s := { s with schedule := evs ++ [.act .engine] }) rfl hbusy hsafe
  have hengine : step u = .next (u.popped.withBlock (u.block.complete (computeOp L.op L))) :=
    (step_of_schedule_cons husched).trans
      (engineTurn_complete (s := u.popped) (hkeep.busy.trans hbusy) (hkeep.pend.trans hpend))
  exact ⟨_, u.block, (runSteps_add _ 1 hu).trans (runSteps_next 0 hengine),
    Block.noResults_of_sameResults hkeep.results (hinv.noResults_of_busy hbusy), rfl⟩

/-! ## The obligations -/

/-- Settles O18: an issue is ignored while BUSY, and otherwise is the error entry or the latching by its validation. -/
theorem issueStep : Obligations.IssueStep := by
  unfold Obligations.IssueStep
  intro s v
  rw [step_hostWrites_cmd]
  refine ⟨fun hbusy => issueByte_busy hbusy v, fun hidle i => ?_⟩
  by_cases hv : validate v (s.block.latch i) = .noError
  · obtain ⟨j, rfl, ho⟩ := issueByte_valid hidle hv
    refine ⟨_, ho, ⟨rfl, rfl, rfl, rfl, rfl⟩, rfl, Block.noResults_accept _ _ _, ⟨rfl, rfl, rfl, rfl⟩,
      fun hne => absurd hv hne, fun _ => ⟨rfl, s.block.latch j, rfl, ?_, rfl, rfl, rfl, rfl⟩⟩
    rw [Block.latch_op, opField_encodeByte]
  · exact ⟨_, issueByte_failing hidle hv, ⟨rfl, rfl, rfl, rfl, rfl⟩, rfl, Block.noResults_errorEntry _ _ _,
      ⟨rfl, rfl, rfl, rfl⟩, fun _ => ⟨rfl, rfl⟩, fun h => absurd h hv⟩

/-- Settles O19: an illegal byte fails the first check, and each command's byte reaches its own check alone. -/
theorem validationChecksInOrder : Obligations.ValidationChecksInOrder := by
  unfold Obligations.ValidationChecksInOrder
  intro v L
  cases hv : commandOf v with
  | none => rw [validate_of_commandOf_none hv, if_pos ((commandOf_eq_none_iff v).mp hv)]
  | some i =>
    rw [if_neg (by simp [← commandOf_eq_none_iff, hv])]
    obtain rfl := (commandOf_eq_some_iff v i).mp hv
    rw [validate_encodeByte]
    cases i with
    | desKs => simp [validateOp, validateDesKs, checkKeyLength_eq, encodeByte, encodeOp]
    | tdesKs => simp [validateOp, validateTdesKs, checkKeyLength_eq, encodeByte, encodeOp]
    | aesKe => simp [validateOp, validateAesKe, checkKeyLength_eq, encodeByte, encodeOp]
    | permutePc1 => simp [validateOp, validatePermutePc1, encodeByte, encodeOp]
    | permutePc2 => simp [validateOp, validatePermutePc2_eq, encodeByte, encodeOp]
    | rotl28 => simp [validateOp, validateRotl28_eq, encodeByte, encodeOp]

/-- Settles O20: a failing issue is the error entry; its block is not BUSY, so the engine does not move. -/
theorem failingIssueIsSynchronous : Obligations.FailingIssueIsSynchronous := by
  unfold Obligations.FailingIssueIsSynchronous
  intro s v i hidle hfail
  refine ⟨_, (step_hostWrites_cmd s v).trans (issueByte_failing hidle hfail), ?_, Block.noResults_errorEntry _ _ _, rfl, rfl,
    Block.busy_errorEntry _ _ _, (step_engineMoves _).trans (engineTurn_idle (Block.busy_errorEntry _ _ _)), ?_⟩
  · rw [State.withBlock_block, Block.errorEntry_status]
    cases validate v (s.block.latch i) <;> rfl
  · rw [step_hostReads_slot (off := 0x001) (slotOf_offset .status)]
    simp [Slot.isResult, Block.readSlot]

/-- Settles O21: `issueByte` looks at BUSY first. -/
theorem commandWriteWhileBusyIsIgnored : Obligations.CommandWriteWhileBusyIsIgnored := fun s v hbusy =>
  (step_hostWrites_cmd s v).trans (issueByte_busy hbusy v)

/-- Settles O22: the engine's move is `Block.complete` with the results of the command in progress. -/
theorem completionWritesTheResults : Obligations.CompletionWritesTheResults := by
  unfold Obligations.CompletionWritesTheResults
  intro s
  rw [step_engineMoves]
  refine ⟨engineTurn_idle, fun L hbusy hpend => ?_⟩
  refine ⟨_, engineTurn_complete hbusy hpend, exec_complete hbusy hpend, ⟨rfl, rfl, rfl, rfl, rfl⟩, ⟨rfl, rfl, rfl, rfl⟩,
    rfl, rfl, rfl, ?_⟩
  rw [State.withBlock_block]
  cases L.op with
  | desKs => exact ⟨rfl, rfl, storePrefix_nil _, s.block.complete_desKs_subkey L⟩
  | tdesKs => exact ⟨rfl, rfl, storePrefix_nil _, s.block.complete_tdesKs_subkey L⟩
  | aesKe => exact ⟨computeAesKe_count_toNat L, rfl, storePrefix_nil _, Block.complete_roundkey_getD _ _⟩
  | permutePc1 => exact ⟨rfl, storePrefix_nil _, storePrefix_nil _, rfl⟩
  | permutePc2 => exact ⟨rfl, storePrefix_nil _, storePrefix_nil _, by rw [← L.source56_eq_setWidth]; rfl⟩
  | rotl28 => exact ⟨rfl, storePrefix_nil _, storePrefix_nil _, by rw [← L.value28_eq_setWidth]; rfl⟩

/-- Settles O23: each run ends with the completion of the same latch on cleared results. -/
theorem resultsDependOnTheLatchAlone : Obligations.ResultsDependOnTheLatchAlone := by
  unfold Obligations.ResultsDependOnTheLatchAlone
  intro s1 s2 L evs1 evs2 hinv1 hinv2 hpend1 hpend2 hsafe1 hsafe2
  obtain ⟨t1, b1, hrun1, hnone1, ht1⟩ := runSteps_hostAccesses_engine hinv1 hpend1 hsafe1
  obtain ⟨t2, b2, hrun2, hnone2, ht2⟩ := runSteps_hostAccesses_engine hinv2 hpend2 hsafe2
  refine ⟨t1, t2, hrun1, hrun2, ?_, ?_, ?_⟩
  · rw [ht1, ht2]
    exact Block.sameResults_complete hnone1 hnone2 _
  · rw [ht1]; rfl
  · rw [ht2]; rfl

end Sys2Proof.Machine
end

section
/-! The leaf units (41_primitives.md): the bit rule of BitPermute and its laws; RotateLeft28 as the library's rotation, with
the sum, the period and the population count of rotations; and what the key's parity bits leave alone. -/

namespace Sys2Proof.Machine

/-! ## BitPermute (41_primitives.md R140, R145) -/

theorem bitPermute_append_singleton {w : Nat} (n : Nat) (src : BitVec w) (table : List Nat) (p : Nat) :
    bitPermute n src (table ++ [p]) = (bitPermute n src table).shiftConcat (src.getLsbD (w - p)) := by
  simp [bitPermute]

/-- The table's last entry selects bit 0, the one before it bit 1, and so on; above the table the result is zero. -/
theorem getLsbD_bitPermute {w n : Nat} (src : BitVec w) (table : List Nat) {i : Nat} (hi : i < n) :
    (bitPermute n src table).getLsbD i = table.reverse[i]?.any fun p => src.getLsbD (w - p) := by
  induction table using List.reverseRecOn generalizing i with
  | nil => simp [bitPermute]
  | append_singleton table p ih =>
    rw [bitPermute_append_singleton, BitVec.getLsbD_shiftConcat]
    cases i with
    | zero => simp [hi]
    | succ i => simp [hi, ih (Nat.lt_of_succ_lt hi)]

theorem getLsbD_bitPermute_length {w : Nat} (src : BitVec w) (table : List Nat) {i : Nat} (hi : i < table.length) :
    (bitPermute table.length src table).getLsbD i = src.getLsbD (w - table[table.length - 1 - i]) := by
  rw [getLsbD_bitPermute src table hi, List.getElem?_eq_getElem (by simpa using hi), List.getElem_reverse, Option.any_some]

theorem bitPermute_xor {w : Nat} (n : Nat) (a b : BitVec w) (table : List Nat) :
    bitPermute n (a ^^^ b) table = bitPermute n a table ^^^ bitPermute n b table := by
  apply BitVec.eq_of_getLsbD_eq
  intro i hi
  rw [BitVec.getLsbD_xor]
  simp only [getLsbD_bitPermute _ _ hi]
  cases table.reverse[i]? with
  | none => rfl
  | some p => exact BitVec.getLsbD_xor

/-- Linearity at the source 0 ^^^ 0. -/
theorem bitPermute_zero {w : Nat} (n : Nat) (table : List Nat) : bitPermute n (0 : BitVec w) table = 0 := by
  simpa using bitPermute_xor n (0 : BitVec w) 0 table

theorem bitPermute_allOnes {w : Nat} {table : List Nat} (hbound : ∀ p ∈ table, 1 ≤ p ∧ p ≤ w) :
    bitPermute table.length (BitVec.allOnes w) table = BitVec.allOnes table.length := by
  apply BitVec.eq_of_getLsbD_eq
  intro i hi
  obtain ⟨hpos, hle⟩ := hbound _ (List.getElem_mem (show table.length - 1 - i < table.length by omega))
  simp only [getLsbD_bitPermute_length _ _ hi, BitVec.getLsbD_allOnes, decide_eq_decide]
  omega

/-- Only the positions that the table lists have an effect. -/
theorem bitPermute_congr {w : Nat} (n : Nat) {a b : BitVec w} {table : List Nat}
    (h : ∀ p ∈ table, a.getLsbD (w - p) = b.getLsbD (w - p)) : bitPermute n a table = bitPermute n b table :=
  List.foldl_ext _ _ _ fun r p hp => by rw [h p hp]

/-! ## Rotations (41_primitives.md R152, R154) -/

theorem rotateLeft_add {w : Nat} (v : BitVec w) (m n : Nat) : v.rotateLeft (m + n) = (v.rotateLeft m).rotateLeft n := by
  apply BitVec.eq_of_getMsbD_eq
  intro i hi
  have hmod : (n + i) % w < w := Nat.mod_lt _ (by omega)
  simp [BitVec.getMsbD_rotateLeft, hi, hmod, Nat.add_assoc]

theorem rotateLeft_add_width {w : Nat} (v : BitVec w) (m : Nat) : v.rotateLeft (m + w) = v.rotateLeft m := by
  rw [← BitVec.rotateLeft_mod_eq_rotateLeft, Nat.add_mod_right, BitVec.rotateLeft_mod_eq_rotateLeft]

@[simp] theorem rotateLeft_zero {w : Nat} (v : BitVec w) : v.rotateLeft 0 = v := by
  apply BitVec.eq_of_getMsbD_eq
  intro i hi
  simp [BitVec.getMsbD_rotateLeft, hi, Nat.mod_eq_of_lt hi]

@[simp] theorem rotateLeft_width {w : Nat} (v : BitVec w) : v.rotateLeft w = v := by
  simpa using rotateLeft_add_width v 0

/-- A rotation reads each bit at one index, moved by the same amount modulo the width. -/
theorem getLsbD_rotateLeft_eq_mod {w : Nat} (v : BitVec w) (n : Nat) {i : Nat} (hi : i < w) :
    (v.rotateLeft n).getLsbD i = v.getLsbD ((i + (w - n % w)) % w) := by
  have hn : n % w < w := Nat.mod_lt _ (by omega)
  rw [BitVec.getLsbD_rotateLeft]
  by_cases hlow : i < n % w
  · have hidx : (i + (w - n % w)) % w = w - n % w + i := by rw [Nat.mod_eq_of_lt (by omega), Nat.add_comm]
    simp [hlow, hidx]
  · have hidx : (i + (w - n % w)) % w = i - n % w := by
      rw [show i + (w - n % w) = i - n % w + w by omega, Nat.add_mod_right, Nat.mod_eq_of_lt (by omega)]
    simp [hlow, hi, hidx]

theorem map_add_mod_range (w k : Nat) : ((List.range w).map fun i => (i + k) % w) = (List.range w).rotate k := by
  apply List.ext_getElem
  · simp
  · intro i _ _
    simp [List.getElem_rotate]

/-- A rotation keeps the population count: it lists the same bits from another index on. -/
theorem countP_getLsbD_rotateLeft {w : Nat} (v : BitVec w) (n : Nat) :
    (List.range w).countP (fun i => (v.rotateLeft n).getLsbD i) = (List.range w).countP (fun i => v.getLsbD i) := by
  calc (List.range w).countP (fun i => (v.rotateLeft n).getLsbD i)
    _ = (List.range w).countP ((fun i => v.getLsbD i) ∘ fun i => (i + (w - n % w)) % w) :=
        List.countP_congr fun i hi => by simp [getLsbD_rotateLeft_eq_mod v n (List.mem_range.mp hi)]
    _ = ((List.range w).rotate (w - n % w)).countP (fun i => v.getLsbD i) := by
        rw [← List.countP_map, map_add_mod_range]
    _ = (List.range w).countP (fun i => v.getLsbD i) := (List.rotate_perm _ _).countP_eq _

/-- RotateLeft28 is the rotation for every count below 28, so on its whole domain (41_primitives.md R152). -/
theorem rotateLeft28_eq_rotateLeft (v : Half) {n : Nat} (hn : n < 28) : rotateLeft28 v n = v.rotateLeft n := by
  rw [BitVec.rotateLeft_def, Nat.mod_eq_of_lt hn]
  rfl

theorem toNat_rotateLeft28 (v : Half) (n : Nat) :
    (rotateLeft28 v n).toNat = ((v.toNat <<< n) ||| (v.toNat >>> (28 - n))) &&& (2 ^ 28 - 1) := by
  have hshift : v.toNat >>> (28 - n) < 2 ^ 28 := (v >>> (28 - n)).isLt
  rw [Nat.and_two_pow_sub_one_eq_mod, Nat.or_mod_two_pow, Nat.mod_eq_of_lt hshift]
  simp [rotateLeft28]

/-- Successive rotations make one rotation by the sum of their counts. -/
theorem foldl_rotateLeft28 (counts : List Nat) (hlt : ∀ n ∈ counts, n < 28) (c : Half) :
    counts.foldl rotateLeft28 c = c.rotateLeft counts.sum := by
  induction counts generalizing c with
  | nil => simp
  | cons n counts ih =>
    obtain ⟨hn, hrest⟩ := List.forall_mem_cons.mp hlt
    rw [List.foldl_cons, ih hrest, rotateLeft28_eq_rotateLeft c hn, List.sum_cons, rotateLeft_add]

theorem lt_of_mem_rot {n : Nat} (hn : n ∈ rot) : n < 28 := by
  rcases rot_wellFormed.in_domain n hn with rfl | rfl <;> decide

/-- The half after `r` rounds of the DES schedule is C0 or D0 rotated by the first `r` counts (42_des.md R172). -/
theorem halfAfter_eq_rotateLeft (c : Half) (r : Nat) : halfAfter c r = c.rotateLeft (rot.take r).sum :=
  foldl_rotateLeft28 _ (fun _ hn => lt_of_mem_rot (List.mem_of_mem_take hn)) c

/-- The whole schedule turns a half once round (41_primitives.md R154). -/
theorem halfAfter_all_rounds (c : Half) : halfAfter c 16 = c := by
  rw [halfAfter_eq_rotateLeft, ← rot_wellFormed.length_eq, List.take_length, rot_wellFormed.sum_eq, rotateLeft_width]

/-- Rotating by 27 undoes rotating by 1. -/
theorem rotateLeft28_one_bijective : Function.Bijective fun v : Half => rotateLeft28 v 1 := by
  simp only [rotateLeft28_eq_rotateLeft _ (show 1 < 28 by decide)]
  refine Function.bijective_iff_has_inverse.mpr ⟨fun v => v.rotateLeft 27, fun v => ?_, fun v => ?_⟩
  · exact (rotateLeft_add v 1 27).symm.trans (rotateLeft_width v)
  · exact (rotateLeft_add v 27 1).symm.trans (rotateLeft_width v)

/-! ## Parity bits (41_primitives.md R146) -/

/-- PC-1 lists no multiple of 8, so it selects no key byte's least-significant bit. -/
theorem pc1_selects_no_parity_bit {p : Nat} (hp : p ∈ pc1) : 64 - p < 64 ∧ (64 - p) % 8 ≠ 0 := by
  have hall : ∀ p ∈ pc1, 64 - p < 64 ∧ (64 - p) % 8 ≠ 0 := by decide
  exact hall p hp

theorem permutePc1_congr {k k' : Reg64} (h : ∀ n < 64, n % 8 ≠ 0 → k.getLsbD n = k'.getLsbD n) :
    permutePc1 k = permutePc1 k' := by
  refine bitPermute_congr 56 fun p hp => ?_
  obtain ⟨hlt, hparity⟩ := pc1_selects_no_parity_bit hp
  exact h (64 - p) hlt hparity

theorem getLsbD_clearParity (b : Byte) {j : Nat} (hj : j < 8) (hpos : j ≠ 0) :
    (b &&& 0xFE).getLsbD j = b.getLsbD j := by
  have hmask : ∀ j < 8, j ≠ 0 → (0xFE : Byte).getLsbD j = true := by decide
  rw [BitVec.getLsbD_and, hmask j hj hpos, Bool.and_true]

theorem beBits_clearParity_getLsbD {key : List Byte} (hlen : key.length = 8) {n : Nat} (hn : n < 64) (hpos : n % 8 ≠ 0) :
    (beBits 64 (key.map fun b => b &&& 0xFE)).getLsbD n = (beBits 64 key).getLsbD n := by
  have hbyte : 7 - n / 8 < key.length := by omega
  rw [beBits_getLsbD_64 _ (by simpa using hlen) n hn, beBits_getLsbD_64 _ hlen n hn,
    ← getLsbD_clearParity (key.getD (7 - n / 8) 0) (Nat.mod_lt n (by decide)) hpos]
  simp [List.getD_eq_getElem?_getD, hbyte]

theorem validateOp_key (i : Instr) (L : Latched) (key : Vector Byte 32) :
    validateOp i { L with key := key } = validateOp i L := by
  cases i <;> rfl

/-! ## The obligations -/

/-- Settles O40: the bit rule at bit `len(T) - 1 - k`. -/
theorem bitPermuteSelectsTheListedBits : Obligations.BitPermuteSelectsTheListedBits := by
  unfold Obligations.BitPermuteSelectsTheListedBits
  intro w src table _ k hk
  have hidx : table.length - 1 - (table.length - 1 - k) = k := by omega
  simp only [getLsbD_bitPermute_length src table (show table.length - 1 - k < table.length by omega), hidx]

/-- Settles O41: the bound is the result's width, and of the other laws only that of all ones uses the table's bound. -/
theorem bitPermuteLaws : Obligations.BitPermuteLaws := by
  unfold Obligations.BitPermuteLaws
  intro w table hbound
  exact ⟨fun a => (bitPermute table.length a table).isLt, fun a b => bitPermute_xor _ a b table, bitPermute_zero _ table,
    bitPermute_allOnes hbound, fun a b h => bitPermute_congr _ h⟩

/-- Settles O42: the mask is the result's width, and counts 1 and 2 are below it. -/
theorem rotateLeft28IsTheCircularRotation : Obligations.RotateLeft28IsTheCircularRotation := by
  unfold Obligations.RotateLeft28IsTheCircularRotation
  intro v n hn
  exact ⟨toNat_rotateLeft28 v n, rotateLeft28_eq_rotateLeft v (by omega)⟩

/-- Settles O43: RotateLeft28 is the rotation, and rotations add, have period 28 and keep the population count. -/
theorem rotationLaws : Obligations.RotationLaws := by
  unfold Obligations.RotationLaws
  refine ⟨rotateLeft28_one_bijective, fun v => ?_, fun v n hn => ?_, fun v m n => ?_, rot_wellFormed.sum_eq,
    halfAfter_all_rounds⟩
  · simp only [rotateLeft28_eq_rotateLeft _ (show 1 < 28 by decide), rotateLeft28_eq_rotateLeft _ (show 2 < 28 by decide)]
    exact (rotateLeft_add v 1 1).symm
  · rw [rotateLeft28_eq_rotateLeft v (by omega), countP_getLsbD_rotateLeft]
  · exact ⟨rotateLeft_add v m n, rotateLeft_add_width v m⟩

/-- Settles O46: PC-1 selects no parity bit, so the schedule reads none, and no validation reads the key. -/
theorem parityBitsAreIgnored : Obligations.ParityBitsAreIgnored := by
  unfold Obligations.ParityBitsAreIgnored
  refine ⟨fun key hlen => ?_, fun k k' => permutePc1_congr, fun L key => validateOp_key L.op L key⟩
  have hpc1 : permutePc1 (beBits 64 (key.map fun b => b &&& 0xFE)) = permutePc1 (beBits 64 key) :=
    permutePc1_congr fun n hn hpos => beBits_clearParity_getLsbD hlen hn hpos
  simp only [desKeySchedule, desSchedule64, hpc1]

end Sys2Proof.Machine
end

section
/-! The DES schedule (42_des.md R174): complement goes through every stage of it, from the key bytes to the subkeys, and it
depends on the first eight latched key bytes alone. -/

namespace Sys2Proof.Machine

/-! ## Complement through each stage -/

/-- Complementing is adding all ones, and BitPermute is linear and keeps all ones (41_primitives.md R145). -/
theorem bitPermute_not {w n : Nat} {table : List Nat} (hlen : table.length = n) (hbound : ∀ p ∈ table, 1 ≤ p ∧ p ≤ w)
    (a : BitVec w) : bitPermute n (~~~a) table = ~~~bitPermute n a table := by
  subst hlen
  rw [← BitVec.xor_allOnes, bitPermute_xor, bitPermute_allOnes hbound, BitVec.xor_allOnes]

theorem permutePc1_not (k : Reg64) : permutePc1 (~~~k) = ~~~permutePc1 k :=
  bitPermute_not pc1_wellFormed.length_eq pc1_wellFormed.in_range k

theorem permutePc2_not (k56 : BitVec 56) : permutePc2 (~~~k56) = ~~~permutePc2 k56 :=
  bitPermute_not pc2_wellFormed.length_eq pc2_wellFormed.in_range k56

theorem halfC_not (k56 : BitVec 56) : halfC (~~~k56) = ~~~halfC k56 := by
  apply BitVec.eq_of_getLsbD_eq
  intro i hi
  have hlt : 28 + i < 56 := by omega
  simp [halfC, hi, hlt]

theorem halfD_not (k56 : BitVec 56) : halfD (~~~k56) = ~~~halfD k56 := BitVec.extractLsb'_not_of_lt (by decide)

/-- A rotation only moves bits. -/
theorem rotateLeft_not {w : Nat} (v : BitVec w) (n : Nat) : (~~~v).rotateLeft n = ~~~v.rotateLeft n := by
  apply BitVec.eq_of_getLsbD_eq
  intro i hi
  have hidx : (i + (w - n % w)) % w < w := Nat.mod_lt _ (by omega)
  rw [getLsbD_rotateLeft_eq_mod _ n hi, BitVec.getLsbD_not, BitVec.getLsbD_not, getLsbD_rotateLeft_eq_mod v n hi]
  simp [hi, hidx]

theorem rotateLeft28_not (v : Half) {n : Nat} (hn : n < 28) : rotateLeft28 (~~~v) n = ~~~rotateLeft28 v n := by
  rw [rotateLeft28_eq_rotateLeft _ hn, rotateLeft28_eq_rotateLeft v hn, rotateLeft_not]

/-- Complementing both halves complements every subkey of the rounds. -/
theorem desRounds_not (counts : List Nat) (hlt : ∀ n ∈ counts, n < 28) (c d : Half) :
    desRounds counts (~~~c) (~~~d) = (desRounds counts c d).map fun k => ~~~k := by
  induction counts generalizing c d with
  | nil => rfl
  | cons n counts ih =>
    obtain ⟨hn, hrest⟩ := List.forall_mem_cons.mp hlt
    simp only [desRounds, List.map_cons, rotateLeft28_not _ hn, ih hrest]
    rw [← BitVec.not_append, permutePc2_not]

theorem desSchedule64_not (k : Reg64) : desSchedule64 (~~~k) = (desSchedule64 k).map fun x => ~~~x := by
  simp only [desSchedule64, permutePc1_not, halfC_not, halfD_not]
  exact desRounds_not rot (fun _ hn => lt_of_mem_rot hn) _ _

theorem beBits_not {key : List Byte} (hlen : key.length = 8) : beBits 64 (key.map fun b => ~~~b) = ~~~beBits 64 key := by
  apply BitVec.eq_of_getLsbD_eq
  intro i hi
  have hbyte : 7 - i / 8 < key.length := by omega
  have hbit : i % 8 < 8 := Nat.mod_lt i (by decide)
  rw [BitVec.getLsbD_not, beBits_getLsbD_64 _ (by simpa using hlen) i hi, beBits_getLsbD_64 _ hlen i hi]
  simp [List.getD_eq_getElem?_getD, hbyte, hbit, hi]

/-- Complementing all 64 key bits complements every subkey (42_des.md R174). -/
theorem desKeySchedule_not {key : List Byte} (hlen : key.length = 8) :
    desKeySchedule (key.map fun b => ~~~b) = (desKeySchedule key).map fun k => ~~~k := by
  rw [desKeySchedule, beBits_not hlen, desSchedule64_not, desKeySchedule]

/-! ## Determinism -/

/-- DES_KS reads KEY[0..7] alone (30_encoding.md R93). -/
theorem Latched.desKey_congr {L L' : Latched} (h : ∀ j : Fin 8, L.key[j.val] = L'.key[j.val]) : L.desKey = L'.desKey := by
  apply List.ext_getElem
  · simp [Latched.desKey, slice]
  · intro j hj _
    have hlt : j < 8 := hj.trans_eq (by simp [Latched.desKey, slice])
    simpa [Latched.desKey, slice] using h ⟨j, hlt⟩

/-! ## The obligation -/

/-- Settles O45: complement goes through the key bytes, PC-1, each round's rotations and PC-2; the schedule is a function of
the eight key bytes; and the rotations of all rounds make one whole turn. -/
theorem desScheduleLaws : Obligations.DesScheduleLaws := by
  unfold Obligations.DesScheduleLaws
  refine ⟨fun key hlen => ⟨desKeySchedule_length key, fun k _ => k.isLt, desKeySchedule_not hlen⟩, fun L L' h => ?_,
    halfAfter_all_rounds⟩
  exact congrArg desKeySchedule (Latched.desKey_congr h)

end Sys2Proof.Machine
end

section
/-! The Triple-DES split (43_tdes.md R191): each part lies inside the KEYLEN latched bytes, so cutting it from them is cutting
it from KEY. -/

namespace Sys2Proof.Machine

/-! ## Slices of the latched key bytes -/

/-- A slice that ends inside a prefix is the slice of the whole. -/
theorem slice_slice_zero (bytes : List Byte) (a : Nat) {b n : Nat} (h : b ≤ n) :
    slice (slice bytes 0 n) a b = slice bytes a b := by
  have hmin : min (b - a) (n - a) = b - a := by omega
  simp [slice, List.drop_take, List.take_take, hmin]

/-- Below KEYLEN, a slice of the latched key bytes is the slice of KEY. -/
theorem Latched.slice_keyBytes (L : Latched) (a : Nat) {b : Nat} (h : b ≤ L.keylen.toNat) :
    slice L.keyBytes a b = slice L.key.toList a b :=
  slice_slice_zero L.key.toList a h

/-! ## The two modes -/

/-- 2-key mode: the third key is the first eight bytes again. -/
theorem tdesSplit_two_keys {key : List Byte} (hlen : key.length = 16) :
    tdesSplit key = (slice key 0 8, slice key 8 16, slice key 0 8) := if_pos hlen

/-- 3-key mode: the third key is bytes of its own. -/
theorem tdesSplit_three_keys {key : List Byte} (hlen : key.length = 24) :
    tdesSplit key = (slice key 0 8, slice key 8 16, slice key 16 24) := if_neg (by omega)

/-! ## The obligation -/

/-- Settles O47: KEYLEN is the number of latched key bytes, so it selects the mode, and every part of that mode ends at or
below KEYLEN. -/
theorem tdesSplitByLength : Obligations.TdesSplitByLength := by
  unfold Obligations.TdesSplitByLength
  refine fun L => ⟨fun h => ?_, fun h => ?_⟩
  · have hlen : L.keylen.toNat = 16 := by simp [h]
    have hbytes : L.keyBytes.length = 16 := (Latched.keyBytes_length (by omega)).trans hlen
    rw [tdesSplit_two_keys hbytes, L.slice_keyBytes 0 (by omega), L.slice_keyBytes 8 (by omega)]
  · have hlen : L.keylen.toNat = 24 := by simp [h]
    have hbytes : L.keyBytes.length = 24 := (Latched.keyBytes_length (by omega)).trans hlen
    rw [tdesSplit_three_keys hbytes, L.slice_keyBytes 0 (by omega), L.slice_keyBytes 8 (by omega),
      L.slice_keyBytes 16 (by omega)]

end Sys2Proof.Machine
end

section
/-! The AES key expansion (44_aes.md): the word operations byte by byte, the word buffer as its seed followed by the
recurrence of R221, and the round keys as the buffer's words in big-endian order. -/

namespace Sys2Proof.Machine

/-! ## Fields of a concatenation -/

/-- A field inside one of four concatenated parts is that field of the part. -/
theorem extractLsb'_append_four {n : Nat} (a b c d : BitVec n) {i : Nat} (hi : i < 4) {start len : Nat}
    (h : start + len ≤ n) :
    (a ++ b ++ c ++ d).extractLsb' ((3 - i) * n + start) len = ([a, b, c, d].getD i 0).extractLsb' start len := by
  interval_cases i
  · rw [BitVec.extractLsb'_append_eq_of_le (by omega), BitVec.extractLsb'_append_eq_of_le (by omega),
      BitVec.extractLsb'_append_eq_of_le (by omega), show (3 - 0) * n + start - n - n - n = start by omega]
    rfl
  · rw [BitVec.extractLsb'_append_eq_of_le (by omega), BitVec.extractLsb'_append_eq_of_le (by omega),
      BitVec.extractLsb'_append_eq_of_add_le (by omega), show (3 - 1) * n + start - n - n = start by omega]
    rfl
  · rw [BitVec.extractLsb'_append_eq_of_le (by omega), BitVec.extractLsb'_append_eq_of_add_le (by omega),
      show (3 - 2) * n + start - n = start by omega]
    rfl
  · rw [BitVec.extractLsb'_append_eq_of_add_le (by omega), show (3 - 3) * n + start = start by omega]
    rfl

theorem extractLsb'_append_bytes (a b c d : Byte) {i : Nat} (hi : i < 4) :
    (a ++ b ++ c ++ d : BitVec 32).extractLsb' ((3 - i) * 8) 8 = [a, b, c, d].getD i 0 :=
  (extractLsb'_append_four a b c d hi (Nat.le_refl (0 + 8))).trans BitVec.extractLsb'_eq_self

theorem beByte_append_words (a b c d : AesWord) {i j : Nat} (hi : i < 4) (hj : j < 4) :
    beByte (a ++ b ++ c ++ d : BitVec 128) (4 * i + j) = beByte ([a, b, c, d].getD i 0) j := by
  have hstart : 128 - 8 - 8 * (4 * i + j) = (3 - i) * 32 + (32 - 8 - 8 * j) := by omega
  unfold beByte
  rw [hstart]
  exact extractLsb'_append_four a b c d hi (by omega)

/-! ## The word operations -/

theorem rotWord_eq_rotateLeft (w : AesWord) : rotWord w = w.rotateLeft 8 := by
  rw [rotWord, BitVec.rotateLeft_def]

/-- The low byte of the rotated word is byte `a`, and every other bit comes from 8 bits below (R213). -/
theorem rotWord_append (a b c d : Byte) : rotWord (a ++ b ++ c ++ d : BitVec 32) = (b ++ c ++ d ++ a : BitVec 32) := by
  apply BitVec.eq_of_getLsbD_eq
  intro i hi
  rw [rotWord_eq_rotateLeft, BitVec.getLsbD_rotateLeft]
  simp only [getLsbD_append_bytes]
  by_cases h : i < 8
  · have hlow : ¬ 24 + i < 8 ∧ ¬ 24 + i < 16 := by omega
    simp [h, hlow]
  · have h8 : i - 8 < 8 ↔ i < 16 := by omega
    have h16 : i - 8 < 16 ↔ i < 24 := by omega
    have h24 : i - 8 < 24 := by omega
    simp [h, hi, h8, h16, h24, Nat.sub_sub]

theorem subWord_append (a b c d : Byte) :
    subWord (a ++ b ++ c ++ d : BitVec 32) = (sboxAt a ++ sboxAt b ++ sboxAt c ++ sboxAt d : BitVec 32) := by
  have byte {i : Nat} (hi : i < 4) := extractLsb'_append_bytes a b c d hi
  rw [subWord, byte (i := 0) (by decide), byte (i := 1) (by decide), byte (i := 2) (by decide), byte (i := 3) (by decide)]
  rfl

/-! ## The seed of the word buffer -/

theorem slice_length {bytes : List Byte} (a : Nat) {b : Nat} (h : b ≤ bytes.length) : (slice bytes a b).length = b - a := by
  simp only [slice, List.length_take, List.length_drop]
  omega

theorem slice_getD (bytes : List Byte) {a b j : Nat} (h : a + j < b) : (slice bytes a b).getD j 0 = bytes.getD (a + j) 0 := by
  have hj : j < b - a := by omega
  simp [slice, List.getElem?_take_of_lt, hj]

/-- The seed's words are big-endian groups of four key bytes (R220 step 2). -/
theorem aesSeed_getD_getLsbD {key : List Byte} {i n : Nat} (hi : i < key.length / 4) (hn : n < 32) :
    ((aesSeed key).getD i 0).getLsbD n = (key.getD (4 * i + (3 - n / 8)) 0).getLsbD (n % 8) := by
  have hword : (aesSeed key).getD i 0 = beBits 32 (slice key (4 * i) (4 * i + 4)) := by simp [aesSeed, hi]
  have hlen : (slice key (4 * i) (4 * i + 4)).length = 4 := (slice_length _ (by omega)).trans (by omega)
  rw [hword, beBits_getLsbD_32 _ hlen n hn, slice_getD key (by omega)]

/-! ## The word buffer -/

theorem aesExtend_getD_of_lt (nk more : Nat) {w : List AesWord} {i : Nat} (h : i < w.length) :
    (aesExtend nk more w).getD i 0 = w.getD i 0 := by
  induction more generalizing w with
  | zero => rfl
  | succ more ih => rw [aesExtend, ih (by simp; omega), List.getD_append _ _ _ _ h]

/-- Every word that the extension adds obeys the recurrence on the finished buffer, for the words it was made from are never
written again (R220 step 3). -/
theorem aesExtend_getD_added {nk : Nat} (hpos : 0 < nk) (more : Nat) {w : List AesWord} {i : Nat} (hseed : nk ≤ w.length)
    (hle : w.length ≤ i) (hlt : i < w.length + more) :
    (aesExtend nk more w).getD i 0 =
      (aesExtend nk more w).getD (i - nk) 0 ^^^ aesTemp nk i ((aesExtend nk more w).getD (i - 1) 0) := by
  induction more generalizing w with
  | zero => omega
  | succ more ih =>
    have hlen : (w ++ [aesNextWord nk w]).length = w.length + 1 := by simp
    obtain rfl | hgt := hle.eq_or_lt
    · have hold (j : Nat) (hj : j < w.length) : (aesExtend nk (more + 1) w).getD j 0 = w.getD j 0 :=
        aesExtend_getD_of_lt nk (more + 1) hj
      rw [hold (w.length - nk) (by omega), hold (w.length - 1) (by omega), aesExtend,
        aesExtend_getD_of_lt nk more (by omega)]
      simp [aesNextWord]
    · exact ih (by omega) (by omega) (by omega)

theorem aesRounds_of_keyLength {n : Nat} (h : n = 16 ∨ n = 24 ∨ n = 32) :
    aesRounds (n / 4) = if n = 16 then 10 else if n = 24 then 12 else 14 := by
  obtain rfl | rfl | rfl := h <;> rfl

/-- The buffer has 4(Nr+1) words: the seed is no longer than that (R224). -/
theorem aesWords_length {key : List Byte} (h : key.length = 16 ∨ key.length = 24 ∨ key.length = 32) :
    (aesWords key).length = 4 * (aesRounds (key.length / 4) + 1) := by
  rw [aesWords, aesExtend_length, aesSeed_length, aesRounds_of_keyLength h]
  split_ifs <;> omega

theorem aesWords_getD_of_lt {key : List Byte} {i : Nat} (h : i < key.length / 4) :
    (aesWords key).getD i 0 = (aesSeed key).getD i 0 :=
  aesExtend_getD_of_lt _ _ (by rwa [aesSeed_length])

theorem aesWords_getD_of_le {key : List Byte} {i : Nat} (hpos : 0 < key.length / 4) (hle : key.length / 4 ≤ i)
    (hlt : i < (aesWords key).length) :
    (aesWords key).getD i 0 =
      (aesWords key).getD (i - key.length / 4) 0 ^^^ aesTemp (key.length / 4) i ((aesWords key).getD (i - 1) 0) := by
  have hseed := aesSeed_length key
  have hadded : i < (aesSeed key).length + (4 * (aesRounds (key.length / 4) + 1) - key.length / 4) := by
    simpa only [aesWords, aesExtend_length] using hlt
  exact aesExtend_getD_added hpos _ hseed.ge (by omega) hadded

/-- Of the three values of Nk, 8 alone is above 6 (R221). -/
theorem aesTemp_eq {nk : Nat} (h : nk = 4 ∨ nk = 6 ∨ nk = 8) (i : Nat) (prev : AesWord) :
    aesTemp nk i prev =
      if i % nk = 0 then subWord (rotWord prev) ^^^ rconWord (i / nk - 1)
      else if nk = 8 ∧ i % 8 = 4 then subWord prev
      else prev := by
  obtain rfl | rfl | rfl := h <;> simp [aesTemp]

/-! ## The round keys -/

theorem aesKeyExpansion_getD {key : List Byte} {r : Nat} (hr : r < (aesKeyExpansion key).length) :
    (aesKeyExpansion key).getD r 0 = aesRoundKey (aesWords key) r := by
  rw [aesKeyExpansion_length] at hr
  simp [aesKeyExpansion, hr]

/-- Bytes `4c` to `4c + 3` of round key `r` are word `4r + c` of the buffer (R226). -/
theorem aesRoundKey_beByte (w : List AesWord) (r : Nat) {c b : Nat} (hc : c < 4) (hb : b < 4) :
    beByte (aesRoundKey w r) (4 * c + b) = beByte (w.getD (4 * r + c) 0) b := by
  have hword : [w.getD (4 * r) 0, w.getD (4 * r + 1) 0, w.getD (4 * r + 2) 0, w.getD (4 * r + 3) 0].getD c 0 =
      w.getD (4 * r + c) 0 := by
    interval_cases c <;> rfl
  rw [← hword]
  exact beByte_append_words _ _ _ _ hc hb

/-! ## The obligations -/

/-- Settles O53: three closed lists of indices, compared with the table's length. -/
theorem rconIndicesAreInRange : Obligations.RconIndicesAreInRange := by
  unfold Obligations.RconIndicesAreInRange
  decide

/-- Settles O49, from the two operations on a word given by its bytes. -/
theorem wordOperationsActOnBytes : Obligations.WordOperationsActOnBytes := by
  unfold Obligations.WordOperationsActOnBytes
  exact fun a b c d => ⟨rotWord_append a b c d, rotWord_eq_rotateLeft _, subWord_append a b c d⟩

/-- Settles O50: the extension keeps the seed, and the seed is the key in big-endian groups. -/
theorem aesSizes : Obligations.AesSizes := by
  unfold Obligations.AesSizes
  intro key hkey
  dsimp only
  rw [← aesRounds_of_keyLength hkey]
  refine ⟨aesWords_length hkey, aesKeyExpansion_length key, fun i hi n hn => ?_⟩
  rw [aesWords_getD_of_lt hi, aesSeed_getD_getLsbD hi hn]

/-- Settles O51: the recurrence holds of every word the extension adds, and `temp` has the three cases of R221. -/
theorem aesWordRecurrence : Obligations.AesWordRecurrence := by
  unfold Obligations.AesWordRecurrence
  intro key hkey nk w i hle hlt
  have hnk : nk = 4 ∨ nk = 6 ∨ nk = 8 := by omega
  exact (aesWords_getD_of_le (by omega) hle hlt).trans (congrArg (w (i - nk) ^^^ ·) (aesTemp_eq hnk i (w (i - 1))))

/-- Settles O52: a round key is four words of the buffer, and a byte of a word is a shift of it, cut to eight bits. -/
theorem aesRoundKeySerialization : Obligations.AesRoundKeySerialization := by
  unfold Obligations.AesRoundKeySerialization
  intro key _ r hr c hc b hb
  rw [aesKeyExpansion_getD hr, aesRoundKey_beByte _ r hc hb, BitVec.setWidth_ushiftRight_eq_extractLsb]
  rfl

end Sys2Proof.Machine
end

section
/-! Staging inputs during BUSY (70_reset_and_hazards.md R287): an input offset has a store and reads back the stored byte,
and a completion reads no input register. -/

namespace Sys2Proof.Machine

/-! ## Stores to the input registers, read back (20_memory.md R62, R63) -/

theorem beByte_setBeByte {w : Nat} (x : BitVec w) (k : Nat) (v : Byte) (hk : 8 * k + 8 ≤ w) :
    beByte (setBeByte x k v) k = v := by
  refine BitVec.eq_of_getLsbD_eq fun i hi => ?_
  have hbit : w - 8 - 8 * k + i < w - 8 * k := by omega
  rw [beByte, BitVec.getLsbD_extractLsb', getLsbD_setBeByte x k v hk]
  simp [hi, hbit]

theorem Block.readSlot_storeInput {b b' : Block} {v : Byte} {slot : Slot} (h : b.storeInput v slot = some b') :
    b'.readSlot slot = v := by
  cases slot <;> cases h
  case keylen => rfl
  case shift => rfl
  case operand k => exact beByte_setBeByte b.operand k v (by omega)
  case key j => exact Vector.getElem_set_self j.isLt

theorem exists_storeInput_of_inputOffset {off : Nat} (h : inputOffset off) (b : Block) (v : Byte) :
    ∃ slot b', slotOf off = some slot ∧ b.storeInput v slot = some b' := by
  rcases h with rfl | rfl | ⟨hlow, hhigh⟩ | ⟨hlow, hhigh⟩
  · exact ⟨.keylen, _, slotOf_offset .keylen, rfl⟩
  · exact ⟨.shift, _, slotOf_offset .shift, rfl⟩
  · exact ⟨.operand ⟨off - 0x008, by omega⟩, _, slotOf_of_offset (Nat.add_sub_cancel' hlow), rfl⟩
  · exact ⟨.key ⟨off - 0x020, by omega⟩, _, slotOf_of_offset (Nat.add_sub_cancel' hlow), rfl⟩

/-! ## The completion after a store (40_commands.md R124, R127) -/

/-- A completion keeps the same results the same. -/
theorem Block.sameResults.complete {b c : Block} (h : b.sameResults c) (r : Results) :
    (b.complete r).sameResults (c.complete r) := by
  obtain ⟨_, hprim, hsub, hround⟩ := h
  simp [Block.sameResults, hprim, hsub, hround]

/-! ## The obligation -/

/-- Settles O27: the write is a store that keeps the command in progress, and both completions write the results of its
latch over the same results. -/
theorem inputsMayBeStagedDuringBusy : Obligations.InputsMayBeStagedDuringBusy := by
  unfold Obligations.InputsMayBeStagedDuringBusy
  intro s L off v i hbusy hpend hinput
  obtain ⟨slot, b, hslot, hstore⟩ := exists_storeInput_of_inputOffset hinput s.block v
  have hkeep : s.KeepsCommand (s.withBlock b) := .storeInput hstore
  have hbusy' := hkeep.busy.trans hbusy
  have hpend' := hkeep.pend.trans hpend
  obtain ⟨hcmd, _⟩ := Block.storeInput_frame hstore
  refine ⟨_, _, _, step_hostWrites_input hslot hstore, hbusy', hpend', ?_, exec_complete hbusy hpend,
    exec_complete hbusy' hpend', hkeep.results.complete _, rfl, hcmd, rfl⟩
  rw [Block.readOffset, hslot]
  exact congrArg some (Block.readSlot_storeInput hstore)

end Sys2Proof.Machine
end

section
/-! The window (20_memory.md): the byte at each offset as a shift of its register, accesses by host address, and a store
to an input register, which writes its own byte alone and is the same done twice. -/

namespace Sys2Proof.Machine

/-! ## The byte at each offset (20_memory.md R65, R70) -/

theorem beByte_eq_setWidth_ushiftRight {w : Nat} (v : BitVec w) (k : Nat) :
    beByte v k = (v >>> (w - 8 - 8 * k)).setWidth 8 := by
  rw [BitVec.setWidth_ushiftRight_eq_extractLsb]
  rfl

/-- A byte of a value lies above the value's highest bit. -/
theorem beByte_eq_zero_of_lt {w k : Nat} {v : BitVec w} (h : v.toNat < 2 ^ (w - 8 - 8 * k)) : beByte v k = 0 := by
  apply BitVec.eq_of_toNat_eq
  simp [beByte, Nat.shiftRight_eq_div_pow, Nat.div_eq_of_lt h]

theorem Block.readOffset_of_offset (b : Block) {off : Nat} {slot : Slot} (h : slot.offset = off) :
    b.readOffset off = some (b.readSlot slot) := by
  simp [Block.readOffset, slotOf_of_offset h]

/-! ## Accesses by host address (20_memory.md R60) -/

theorem selects_byte_outside {base addr : Nat} (h : addr < base ∨ base + 0x400 ≤ addr) : selects base addr 8 = false := by
  rw [Bool.eq_false_iff, ne_eq, selects_byte]
  unfold windowSize
  omega

theorem hostRead_outside {s : State} {addr bits : Nat} (h : selects s.kseBase addr bits = false) :
    hostRead addr bits s = .next s := by
  simp [hostRead, h]

theorem hostWrite_outside {s : State} {addr bits : Nat} (h : selects s.kseBase addr bits = false) (v : Byte) :
    hostWrite addr bits v s = .next s := by
  simp [hostWrite, h]

/-! ## Stores to the input registers (20_memory.md R63) -/

theorem setBeByte_setBeByte {w : Nat} (x : BitVec w) (k : Nat) (v : Byte) (hk : 8 * k + 8 ≤ w) :
    setBeByte (setBeByte x k v) k v = setBeByte x k v := by
  refine BitVec.eq_of_getLsbD_eq fun n _ => ?_
  simp only [getLsbD_setBeByte _ k v hk]
  split_ifs <;> rfl

/-- The bits of two different bytes do not meet. -/
theorem beByte_setBeByte_of_ne {w : Nat} (x : BitVec w) {j k : Nat} (v : Byte) (hj : 8 * j + 8 ≤ w) (hk : 8 * k + 8 ≤ w)
    (hne : j ≠ k) : beByte (setBeByte x k v) j = beByte x j := by
  refine BitVec.eq_of_getLsbD_eq fun i hi => ?_
  have hout : ¬ (w - 8 - 8 * k ≤ w - 8 - 8 * j + i ∧ w - 8 - 8 * j + i < w - 8 * k) := by omega
  rw [beByte, beByte, BitVec.getLsbD_extractLsb', BitVec.getLsbD_extractLsb', getLsbD_setBeByte x k v hk, if_neg hout]

theorem Block.storeInput_storeInput {b b' : Block} {v : Byte} {slot : Slot} (h : b.storeInput v slot = some b') :
    b'.storeInput v slot = some b' := by
  cases slot <;> cases h
  case keylen => rfl
  case shift => rfl
  case operand k => simp [Block.storeInput, setBeByte_setBeByte b.operand k v (by omega)]
  case key j => simp [Block.storeInput]

theorem Block.readSlot_storeInput_of_ne {b b' : Block} {v : Byte} {slot other : Slot}
    (h : b.storeInput v slot = some b') (hne : other ≠ slot) : b'.readSlot other = b.readSlot other := by
  cases slot <;> cases h
  case keylen =>
    cases other
    case keylen => exact absurd rfl hne
    all_goals rfl
  case shift =>
    cases other
    case shift => exact absurd rfl hne
    all_goals rfl
  case operand k =>
    cases other
    case operand j =>
      have hjk : j.val ≠ k.val := fun h => hne (congrArg Slot.operand (Fin.ext h))
      exact beByte_setBeByte_of_ne b.operand v (by omega) (by omega) hjk
    all_goals rfl
  case key k =>
    cases other
    case key j =>
      have hkj : k.val ≠ j.val := fun h => hne (congrArg Slot.key (Fin.ext h.symm))
      exact Vector.getElem_set_ne k.isLt j.isLt hkj
    all_goals rfl

/-! ## The obligations -/

/-- Settles O10: `slotOf` and `Slot.offset` are inverse, and both reserved and result offsets are closed ranges. -/
theorem windowMapIsExact : Obligations.WindowMapIsExact := by
  unfold Obligations.WindowMapIsExact
  refine ⟨fun off r => ⟨offset_of_slotOf, slotOf_of_offset⟩, slotOf_eq_none_iff, fun off => ⟨?_, ?_⟩⟩
  · rintro ⟨r, hslot, hres⟩
    exact (isResult_iff_of_slotOf hslot).mp hres
  · exact exists_slotOf_of_resultOffset

/-- Settles O11: each offset reads its own slot, and a byte of a register is a shift of it, cut to eight bits. -/
theorem registerBytesAreBigEndian : Obligations.RegisterBytesAreBigEndian := by
  unfold Obligations.RegisterBytesAreBigEndian
  intro b
  have read (slot : Slot) : b.readOffset slot.offset = some (b.readSlot slot) := b.readOffset_of_offset rfl
  have byte {w : Nat} (v : BitVec w) (k : Nat) := congrArg some (beByte_eq_setWidth_ushiftRight v k)
  refine ⟨read .cmd, read .status, read .keylen, read .resultCount, read .shift,
    fun k => (read (.operand k)).trans (byte _ k), fun k => (read (.primResult k)).trans (byte _ k), fun j => read (.key j),
    fun j k => (read (.subkey j k)).trans (byte _ k), fun r k => (read (.roundkey r k)).trans (byte _ k), fun j hj => ?_⟩
  have h1 : (Slot.subkey j 1).offset = 0x101 + 8 * j := Nat.add_right_comm 0x100 _ 1
  exact ⟨(read (.subkey j 0)).trans (congrArg some (beByte_eq_zero_of_lt (hj.trans (by decide)))),
    (b.readOffset_of_offset h1).trans (congrArg some (beByte_eq_zero_of_lt hj))⟩

/-- Settles O15: inside the window the address is the base plus its offset; outside it nothing is selected. -/
theorem windowIsSelectedByItsBase : Obligations.WindowIsSelectedByItsBase := by
  unfold Obligations.WindowIsSelectedByItsBase
  intro s addr v
  refine ⟨fun hle _ => ?_, fun hout => ?_⟩
  · have haddr : s.kseBase + (addr - s.kseBase) = addr := Nat.add_sub_cancel' hle
    simp only [State.hostReads, State.hostWrites, haddr, and_self]
  · exact ⟨hostRead_outside (selects_byte_outside hout), hostWrite_outside (selects_byte_outside hout) v⟩

/-- Settles O17: the write is a store to the offset's slot, which is idempotent and leaves every other slot. -/
theorem repeatedInputWriteIsIdempotent : Obligations.RepeatedInputWriteIsIdempotent := by
  unfold Obligations.RepeatedInputWriteIsIdempotent
  intro s t off v hinput hstep
  obtain ⟨slot, b, hslot, hstore⟩ := exists_storeInput_of_inputOffset hinput s.block v
  cases (step_hostWrites_input hslot hstore).symm.trans hstep
  refine ⟨step_hostWrites_input hslot (Block.storeInput_storeInput hstore), ?_, fun off' hne => ?_⟩
  · exact (b.readOffset_of_offset (offset_of_slotOf hslot)).trans (congrArg some (Block.readSlot_storeInput hstore))
  · refine Option.map_congr fun other hother => Block.readSlot_storeInput_of_ne hstore ?_
    rintro rfl
    exact hne ((offset_of_slotOf hother).symm.trans (offset_of_slotOf hslot))

end Sys2Proof.Machine
end

section
/-! One step (60_exceptions.md R268): when it faults, what it does to the world around the block, and each change of the
block with its cause; from these the statements on what a single step can do. -/

namespace Sys2Proof.Machine

/-! ## When a step faults (20_memory.md R66) -/

theorem exec_next (i : Instr) (s : State) : ∃ t, exec i s = .next t := by
  rcases exec_cases (i := i) (s := s) rfl with ⟨_, _, h⟩ | ⟨_, _, h⟩ | ⟨_, _, _, _, h⟩ | ⟨_, _, h⟩ <;> exact ⟨_, h⟩

theorem issueByte_next (v : Byte) (s : State) : ∃ t, issueByte v s = .next t := by
  rcases issueByte_cases (v := v) (s := s) rfl with ⟨_, h⟩ | ⟨_, i, _, h⟩ | ⟨_, _, h⟩
  · exact ⟨_, h⟩
  · exact h ▸ exec_next i s
  · exact ⟨_, h⟩

theorem engineTurn_next (s : State) : ∃ t, engineTurn s = .next t := by
  rcases engineTurn_cases (s := s) rfl with ⟨_, _, _, h⟩ | ⟨_, h⟩ <;> exact ⟨_, h⟩

theorem hostRead_outcome (addr bits : Nat) (s : State) :
    ((Action.read addr bits).isBusError s.kseBase = true ∧ ∃ f, hostRead addr bits s = .fault f) ∨
      ((Action.read addr bits).isBusError s.kseBase = false ∧ ∃ t, hostRead addr bits s = .next t) := by
  rcases hostRead_cases (addr := addr) (bits := bits) (s := s) rfl with
    ⟨hsel, ho⟩ | ⟨hsel, hbits, ho⟩ | ⟨hsel, _, hslot, ho⟩ | ⟨_, rfl, _, hslot, ⟨_, _, ho⟩ | ⟨_, ho⟩⟩
  · exact .inr ⟨by simp [Action.isBusError, hsel], _, ho⟩
  · exact .inl ⟨by simp [Action.isBusError, hsel, hbits], _, ho⟩
  · exact .inl ⟨by simp [Action.isBusError, hsel, hslot], _, ho⟩
  · exact .inr ⟨by simp [Action.isBusError, hslot], _, ho⟩
  · exact .inr ⟨by simp [Action.isBusError, hslot], _, ho⟩

/-- A slot that has a store is not read-only (20_memory.md R63). -/
theorem Block.writable_of_storeInput {b b' : Block} {v : Byte} {slot : Slot} (h : b.storeInput v slot = some b') :
    slot ≠ .status ∧ slot.isResult = false := by
  cases slot <;> cases h <;> exact ⟨nofun, rfl⟩

theorem hostWrite_outcome (addr bits : Nat) (v : Byte) (s : State) :
    ((Action.write addr bits v).isBusError s.kseBase = true ∧ ∃ f, hostWrite addr bits v s = .fault f) ∨
      ((Action.write addr bits v).isBusError s.kseBase = false ∧ ∃ t, hostWrite addr bits v s = .next t) := by
  rcases hostWrite_cases (addr := addr) (bits := bits) (v := v) (s := s) rfl with
    ⟨hsel, ho⟩ | ⟨hsel, hbits, ho⟩ | ⟨hsel, _, hslot, ho⟩ | ⟨_, rfl, hslot, hissue⟩ |
      ⟨hsel, rfl, slot, hslot, hcmd, ⟨b, hstore, ho⟩ | ⟨hstore, ho⟩⟩
  · exact .inr ⟨by simp [Action.isBusError, hsel], _, ho⟩
  · exact .inl ⟨by simp [Action.isBusError, hsel, hbits], _, ho⟩
  · exact .inl ⟨by simp [Action.isBusError, hsel, hslot], _, ho⟩
  · exact .inr ⟨by simp [Action.isBusError, hslot, Slot.isResult], hissue ▸ issueByte_next v s⟩
  · obtain ⟨hstatus, hres⟩ := Block.writable_of_storeInput hstore
    exact .inr ⟨by simp [Action.isBusError, hslot, hstatus, hres], _, ho⟩
  · have hro := Block.readOnly_of_storeInput_none hstore hcmd
    exact .inl ⟨by simpa [Action.isBusError, hsel, hslot] using hro, _, ho⟩

/-- An event faults exactly when it is a bus error, and gives a next state otherwise. -/
theorem handle_outcome (e : Event) (s : State) :
    (e.isBusError s.kseBase = true ∧ ∃ f, handle e s = .fault f) ∨
      (e.isBusError s.kseBase = false ∧ ∃ t, handle e s = .next t) := by
  cases e with
  | reset overridden => exact .inr ⟨rfl, _, rfl⟩
  | act a =>
    cases a with
    | read addr bits => exact hostRead_outcome addr bits s
    | write addr bits v => exact hostWrite_outcome addr bits v s
    | engine => exact .inr ⟨rfl, engineTurn_next s⟩

/-- The event that the next step takes is a bus error. -/
def State.BusErrorDue (s : State) : Prop := ∃ e rest, s.schedule = e :: rest ∧ e.isBusError s.kseBase = true

theorem step_outcome (s : State) :
    (s.BusErrorDue ∧ ∃ f, step s = .fault f) ∨ (¬s.BusErrorDue ∧ ∃ t, step s = .next t) := by
  unfold State.BusErrorDue
  cases hs : s.schedule with
  | nil => exact .inr ⟨by simp, by simpa [step, hs] using engineTurn_next s⟩
  | cons e rest =>
    rw [step_of_schedule_cons hs]
    exact (handle_outcome e s.popped).imp (And.imp (fun he => ⟨e, rest, rfl, he⟩) id)
      (And.imp (fun he => by simpa using he) id)

/-! ## What a store changes (20_memory.md R63) -/

/-- A slot that a store changes is the one it writes, and it then holds the stored byte. -/
theorem Block.storeInput_changes {b b' : Block} {v : Byte} {slot other : Slot} (h : b.storeInput v slot = some b')
    (hne : b'.readSlot other ≠ b.readSlot other) : slot = other ∧ v = b'.readSlot other := by
  by_cases hslot : other = slot
  · subst hslot
    exact ⟨rfl, (Block.readSlot_storeInput h).symm⟩
  · exact absurd (Block.readSlot_storeInput_of_ne h hslot) hne

theorem Block.storeInput_changes_operand {b b' : Block} {v : Byte} {slot : Slot} (h : b.storeInput v slot = some b')
    (hne : b'.operand ≠ b.operand) : ∃ k, slot = .operand k := by
  cases slot <;> cases h
  case operand k => exact ⟨k, rfl⟩
  all_goals exact absurd rfl hne

/-! ## Each change of the block with its cause (60_exceptions.md section 6) -/

/-- The write of `v` to the register byte at window offset `off` is due. -/
def State.WriteDue (s : State) (off : Nat) (v : Byte) : Prop :=
  ∃ rest, s.schedule = .act (.write (s.kseBase + off) 8 v) :: rest

/-- A reset is due. -/
def State.ResetDue (s : State) : Prop := ∃ a rest, s.schedule = .reset a :: rest

/-- The changes of the block that one step can make, each with its cause in the state before; `step_caused` ties them to
`step`. -/
inductive Caused (s : State) : Block → Prop where
  | keep : Caused s s.block
  | store {v : Byte} {slot : Slot} {b : Block} (hdue : s.WriteDue slot.offset v)
      (hstore : s.block.storeInput v slot = some b) : Caused s b
  | issue {b : Block} (hidle : s.block.busy = false) (hdue : s.WriteDue 0x000 b.cmd)
      (hinputs : b.sameInputs s.block) : Caused s b
  | complete {L : Latched} (hbusy : s.block.busy = true) (hpend : s.block.pend = some L) :
      Caused s (s.block.complete (computeOp L.op L))
  | reset (hdue : s.ResetDue) : Caused s Block.reset

/-- A byte write that the block decodes is due at the offset of its slot. -/
theorem State.writeDue_of_slotOf {s : State} {addr : Nat} {v : Byte} {rest : List Event} {slot : Slot}
    (hsched : s.schedule = .act (.write addr 8 v) :: rest) (hsel : selects s.kseBase addr 8 = true)
    (hslot : slotOf (addr - s.kseBase) = some slot) : s.WriteDue slot.offset v := by
  obtain ⟨hle, _⟩ := (selects_byte _ _).mp hsel
  refine ⟨rest, ?_⟩
  rw [hsched, offset_of_slotOf hslot, Nat.add_sub_cancel' hle]

theorem hostWrite_caused {s t : State} {addr bits : Nat} {v : Byte} {rest : List Event}
    (hsched : s.schedule = .act (.write addr bits v) :: rest) (h : hostWrite addr bits v s.popped = .next t) :
    Caused s t.block := by
  rcases hostWrite_cases h with
    ⟨_, ho⟩ | ⟨_, _, ho⟩ | ⟨_, _, _, ho⟩ | ⟨hsel, rfl, hslot, hissue⟩ |
      ⟨hsel, rfl, slot, hslot, _, ⟨b, hstore, ho⟩ | ⟨_, ho⟩⟩
  · cases ho
    exact .keep
  · cases ho
  · cases ho
  · have hdue : s.WriteDue 0x000 v := State.writeDue_of_slotOf hsched hsel hslot
    cases hb : s.block.busy with
    | true =>
      cases (issueByte_busy (s := s.popped) hb v).symm.trans hissue
      exact .keep
    | false =>
      rcases issueByte_accepted (s := s.popped) (v := v) hb with ⟨i, _, _, ho⟩ | ⟨code, _, ho, _⟩ <;>
        cases ho.symm.trans hissue <;> exact .issue hb hdue ⟨rfl, rfl, rfl, rfl⟩
  · cases ho
    exact .store (State.writeDue_of_slotOf hsched hsel hslot) hstore
  · cases ho

theorem engineTurn_caused {s u t : State} (hblock : u.block = s.block) (h : engineTurn u = .next t) :
    Caused s t.block := by
  rcases engineTurn_cases h with ⟨hb, L, hp, ho⟩ | ⟨_, ho⟩ <;> cases ho
  · rw [State.withBlock_block, hblock]
    exact .complete (hblock ▸ hb) (hblock ▸ hp)
  · exact hblock ▸ .keep

theorem step_caused {s t : State} (h : step s = .next t) : Caused s t.block := by
  rcases step_cases s with
    ⟨_, hs⟩ | ⟨_, _, _, _, hs⟩ | ⟨_, _, _, _, hsched, hs⟩ | ⟨_, _, hs⟩ | ⟨a, rest, hsched, hs⟩
  · exact engineTurn_caused rfl (hs.symm.trans h)
  · exact hostRead_block (hs.symm.trans h) ▸ .keep
  · exact hostWrite_caused hsched (hs.symm.trans h)
  · exact engineTurn_caused (u := s.popped) rfl (hs.symm.trans h)
  · cases hs.symm.trans h
    exact .reset ⟨a, rest, hsched⟩

/-- A step of a BUSY block keeps the command in progress, completes it or resets the block (40_commands.md R129). -/
theorem step_of_busy {s t : State} {L : Latched} (hbusy : s.block.busy = true) (hpend : s.block.pend = some L)
    (h : step s = .next t) :
    (t.block.busy = true ∧ t.block.pend = some L ∧ t.block.cmd = s.block.cmd ∧ t.block.sameResults s.block) ∨
      t.block = s.block.complete (computeOp L.op L) ∨ t.block = Block.reset := by
  generalize htb : t.block = b
  cases htb ▸ step_caused h with
  | keep => exact .inl ⟨hbusy, hpend, rfl, rfl, rfl, rfl, rfl⟩
  | store _ hstore =>
    obtain ⟨hcmd, hstatus, hcount, hprim, hsub, hround, hpend'⟩ := Block.storeInput_frame hstore
    exact .inl ⟨(congrArg busyFlag hstatus).trans hbusy, hpend'.trans hpend, hcmd, hcount, hprim, hsub, hround⟩
  | issue hidle => simp [hbusy] at hidle
  | complete _ hpend' =>
    cases hpend.symm.trans hpend'
    exact .inr (.inl rfl)
  | reset => exact .inr (.inr rfl)

/-! ## What a step leaves of the world (20_memory.md R60) -/

theorem exec_sameWorld {i : Instr} {s t : State} (h : exec i s = .next t) : t.sameWorld s := by
  rcases exec_cases h with ⟨_, _, ho⟩ | ⟨_, _, ho⟩ | ⟨_, _, _, _, ho⟩ | ⟨_, _, ho⟩ <;> cases ho <;>
    exact ⟨rfl, rfl, rfl, rfl, rfl⟩

theorem issueByte_sameWorld {v : Byte} {s t : State} (h : issueByte v s = .next t) : t.sameWorld s := by
  rcases issueByte_cases h with ⟨_, ho⟩ | ⟨_, _, _, hexec⟩ | ⟨_, _, ho⟩
  · cases ho
    exact ⟨rfl, rfl, rfl, rfl, rfl⟩
  · exact exec_sameWorld hexec
  · cases ho
    exact ⟨rfl, rfl, rfl, rfl, rfl⟩

theorem engineTurn_sameWorld {s t : State} (h : engineTurn s = .next t) : t.sameWorld s := by
  rcases engineTurn_cases h with ⟨_, _, _, ho⟩ | ⟨_, ho⟩ <;> cases ho <;> exact ⟨rfl, rfl, rfl, rfl, rfl⟩

theorem hostWrite_sameWorld {addr bits : Nat} {v : Byte} {s t : State} (h : hostWrite addr bits v s = .next t) :
    t.sameWorld s := by
  rcases hostWrite_cases h with
    ⟨_, ho⟩ | ⟨_, _, ho⟩ | ⟨_, _, _, ho⟩ | ⟨_, _, _, hissue⟩ | ⟨_, _, _, _, _, ⟨_, _, ho⟩ | ⟨_, ho⟩⟩
  · cases ho
    exact ⟨rfl, rfl, rfl, rfl, rfl⟩
  · cases ho
  · cases ho
  · exact issueByte_sameWorld hissue
  · cases ho
    exact ⟨rfl, rfl, rfl, rfl, rfl⟩
  · cases ho

/-- A host read writes the reads and the draws alone. -/
theorem hostRead_place {addr bits : Nat} {s t : State} (h : hostRead addr bits s = .next t) :
    t.kseBase = s.kseBase ∧ t.schedule = s.schedule := by
  rcases hostRead_cases h with
    ⟨_, ho⟩ | ⟨_, _, ho⟩ | ⟨_, _, _, ho⟩ | ⟨_, _, _, _, ⟨_, _, ho⟩ | ⟨_, ho⟩⟩ <;> cases ho <;> exact ⟨rfl, rfl⟩

/-- A step leaves the window where it is and takes one entry off the schedule. -/
theorem step_place {s t : State} (h : step s = .next t) : t.kseBase = s.kseBase ∧ t.schedule = s.schedule.tail := by
  rcases step_cases s with
    ⟨hsched, hs⟩ | ⟨_, _, _, _, hs⟩ | ⟨_, _, _, _, _, hs⟩ | ⟨_, _, hs⟩ | ⟨_, _, _, hs⟩
  · obtain ⟨hbase, hrest, _⟩ := engineTurn_sameWorld (hs.symm.trans h)
    exact ⟨hbase, by rw [hrest, hsched, List.tail_nil]⟩
  · exact hostRead_place (s := s.popped) (hs.symm.trans h)
  · obtain ⟨hbase, hrest, _⟩ := hostWrite_sameWorld (hs.symm.trans h)
    exact ⟨hbase, hrest⟩
  · obtain ⟨hbase, hrest, _⟩ := engineTurn_sameWorld (hs.symm.trans h)
    exact ⟨hbase, hrest⟩
  · cases hs.symm.trans h
    exact ⟨rfl, rfl⟩

/-! ## What the step of a command leaves of the block (40_commands.md, 60_exceptions.md section 4) -/

theorem exec_sameInputs {i : Instr} {s t : State} (h : exec i s = .next t) : t.block.sameInputs s.block := by
  rcases exec_cases h with ⟨_, _, ho⟩ | ⟨_, _, ho⟩ | ⟨_, _, _, _, ho⟩ | ⟨_, _, ho⟩ <;> cases ho <;>
    exact ⟨rfl, rfl, rfl, rfl⟩

/-- While BUSY no command's step writes CMD (40_commands.md R126, R127). -/
theorem exec_cmd_of_busy {i : Instr} {s t : State} (hbusy : s.block.busy = true) (h : exec i s = .next t) :
    t.block.cmd = s.block.cmd := by
  rcases exec_cases h with ⟨hidle, _⟩ | ⟨hidle, _⟩ | ⟨_, _, _, _, ho⟩ | ⟨_, _, ho⟩
  · simp [hbusy] at hidle
  · simp [hbusy] at hidle
  · cases ho
    rfl
  · cases ho
    rfl

/-- A command that is not the one in progress does nothing (log entry 10). -/
theorem exec_of_not_pending {i : Instr} {s : State} (hbusy : s.block.busy = true)
    (hpend : ∀ L, s.block.pend = some L → L.op ≠ i) : exec i s = .next s := by
  rcases exec_cases (i := i) (s := s) rfl with ⟨hidle, _⟩ | ⟨hidle, _⟩ | ⟨_, L, hL, hop, _⟩ | ⟨_, _, ho⟩
  · simp [hbusy] at hidle
  · simp [hbusy] at hidle
  · exact absurd hop (hpend L hL)
  · exact ho

/-- The bytes of the input registers are read off the inputs alone. -/
theorem Block.readSlot_of_sameInputs {b c : Block} (h : b.sameInputs c) {slot : Slot} (hcmd : slot ≠ .cmd)
    (hstatus : slot ≠ .status) (hres : slot.isResult = false) : b.readSlot slot = c.readSlot slot := by
  obtain ⟨hkeylen, hshift, hoperand, hkey⟩ := h
  cases slot with
  | cmd => exact absurd rfl hcmd
  | status => exact absurd rfl hstatus
  | keylen => exact hkeylen
  | shift => exact hshift
  | operand k => exact congrArg (beByte · k) hoperand
  | key j => exact congrArg (·[j]) hkey
  | resultCount => cases hres
  | primResult k => cases hres
  | subkey j k => cases hres
  | roundkey r k => cases hres

theorem Block.readOffset_of_sameInputs {b c : Block} (h : b.sameInputs c) {off : Nat} (hcmd : off ≠ 0x000)
    (hstatus : off ≠ 0x001) (hres : ¬resultOffset off) : b.readOffset off = c.readOffset off := by
  refine Option.map_congr fun slot hslot => Block.readSlot_of_sameInputs h ?_ ?_ ?_
  · rintro rfl
    exact hcmd (offset_of_slotOf hslot).symm
  · rintro rfl
    exact hstatus (offset_of_slotOf hslot).symm
  · rwa [← isResult_iff_of_slotOf hslot, Bool.not_eq_true] at hres

/-! ## The state with a command byte put in front -/

theorem State.withNoCommand_of_idle {s : State} (h : s.block.busy = false) : s.withNoCommand = s := by
  simp [State.withNoCommand, h]

theorem State.withNoCommand_of_busy {s : State} (h : s.block.busy = true) :
    s.withNoCommand = s.withBlock { s.block with status := statusIdle, pend := none } := if_pos h

theorem State.withNoCommand_busy (s : State) : s.withNoCommand.block.busy = false := by
  cases hb : s.block.busy with
  | false => rw [State.withNoCommand_of_idle hb, hb]
  | true =>
    rw [State.withNoCommand_of_busy hb]
    exact busyFlag_idle

theorem State.withNoCommand_frame (s : State) :
    s.withNoCommand.sameWorld s ∧ s.withNoCommand.block.sameInputs s.block := by
  cases hb : s.block.busy with
  | false =>
    rw [State.withNoCommand_of_idle hb]
    exact ⟨⟨rfl, rfl, rfl, rfl, rfl⟩, rfl, rfl, rfl, rfl⟩
  | true =>
    rw [State.withNoCommand_of_busy hb]
    exact ⟨⟨rfl, rfl, rfl, rfl, rfl⟩, rfl, rfl, rfl, rfl⟩

theorem State.withFetchWord_eq (s : State) (nbits w : Nat) :
    s.withFetchWord nbits w = s.withNoCommand.hostWrites 0x000 (tableByte nbits w) := by
  obtain ⟨⟨hbase, hsched, _⟩, _⟩ := s.withNoCommand_frame
  rw [State.withFetchWord, State.hostWrites, State.upcoming, hbase, hsched, Slot.offset]

theorem commandOf_of_decode_single {v : Byte} {i : Instr} {rest : List Byte} (h : decode [v] = .ok (i, rest)) :
    commandOf v = some i := by
  rw [decode_cons] at h
  cases hd : decodeByte v with
  | ok j =>
    rw [hd] at h
    cases h
    simp [commandOf, hd]
  | error e =>
    rw [hd] at h
    cases h

theorem commandOf_of_decodeTableWord {nbits w : Nat} {i : Instr} (h : decodeTableWord nbits w = some i) :
    commandOf (tableByte nbits w) = some i := by
  unfold decodeTableWord at h
  split at h
  next j rest hd =>
    cases h
    exact commandOf_of_decode_single hd
  next => cases h

/-! ## The obligations -/

/-- Settles O8: each move of the block keeps the invariant, and a step makes one of these moves. -/
theorem everyStepKeepsTheInvariant : Obligations.EveryStepKeepsTheInvariant := fun _ _ => step_keeps_inv

/-- Settles O16: the event due faults exactly when it is a bus error, and every other step is a next state. -/
theorem onlyBusErrorsStopARun : Obligations.OnlyBusErrorsStopARun := by
  unfold Obligations.OnlyBusErrorsStopARun
  intro s
  rcases step_outcome s with ⟨hdue, f, hf⟩ | ⟨hdue, t, ht⟩
  · exact ⟨by simp [hf], fun _ => hdue, fun _ => ⟨f, hf⟩⟩
  · exact ⟨by simp [ht], by simp [ht], fun h => absurd h hdue⟩

/-- Settles O24: of the moves of a BUSY block only the completion and the reset end BUSY. -/
theorem busyEndsOnlyByCompletionOrReset : Obligations.BusyEndsOnlyByCompletionOrReset := by
  unfold Obligations.BusyEndsOnlyByCompletionOrReset
  intro s t L hinv hpend h
  have hbusy := hinv.busy_of_pend hpend
  rcases step_of_busy hbusy hpend h with hkeep | hdone | hreset
  · exact .inl hkeep
  · exact .inr (.inl ⟨hdone ▸ exec_complete hbusy hpend, hdone ▸ rfl⟩)
  · exact .inr (.inr hreset)

/-- Settles O28: an error block is not BUSY, and of the moves of such a block only an issue and a reset write STATUS. -/
theorem errorStaysUntilIssueOrReset : Obligations.ErrorStaysUntilIssueOrReset := by
  unfold Obligations.ErrorStaysUntilIssueOrReset
  intro s t hinv herror h
  have hidle : s.block.busy = false := by
    obtain ⟨_, busy_error, _⟩ := legalStatuses_flags s.block.status hinv.status_legal
    exact Bool.eq_false_iff.mpr fun hbusy => busy_error ⟨hbusy, herror⟩
  generalize htb : t.block = b
  cases htb ▸ step_caused h with
  | keep => exact .inl rfl
  | store _ hstore =>
    obtain ⟨_, hstatus, _⟩ := Block.storeInput_frame hstore
    exact .inl hstatus
  | issue _ hdue =>
    obtain ⟨rest, hsched⟩ := hdue
    exact .inr (.inl ⟨_, rest, hsched, rfl⟩)
  | complete hbusy => simp [hidle] at hbusy
  | reset hdue => exact .inr (.inr hdue)

/-- Settles O29: every change of the block has its cause, and a store writes its own slot alone. -/
theorem eachRegisterHasItsOwnCause : Obligations.EachRegisterHasItsOwnCause := by
  unfold Obligations.EachRegisterHasItsOwnCause
  intro s t h
  refine ⟨(step_place h).1, ?_⟩
  generalize htb : t.block = b
  cases htb ▸ step_caused h with
  | reset hdue => exact .inl hdue
  | keep => exact .inr (by simp [Block.sameResults])
  | store hdue hstore =>
    obtain ⟨hcmd, hstatus, hcount, hprim, hsub, hround, hpend⟩ := Block.storeInput_frame hstore
    have own (other : Slot) := Block.storeInput_changes hstore (other := other)
    refine .inr ⟨fun hne => absurd hcmd hne, fun hne => ?_, fun hne => ?_, fun hne => ?_, fun j hne => ?_,
      fun hne => absurd hstatus hne, fun hne => absurd ⟨hcount, hprim, hsub, hround⟩ hne, fun hne => absurd hpend hne⟩
    · obtain ⟨rfl, rfl⟩ := own .keylen hne
      exact hdue
    · obtain ⟨rfl, rfl⟩ := own .shift hne
      exact hdue
    · obtain ⟨k, rfl⟩ := Block.storeInput_changes_operand hstore hne
      exact ⟨k, _, hdue⟩
    · obtain ⟨rfl, rfl⟩ := own (.key j) hne
      exact hdue
  | issue hidle hdue hinputs =>
    obtain ⟨hkeylen, hshift, hoperand, hkey⟩ := hinputs
    refine .inr ?_
    intro written issued completed
    have hissued : issued := ⟨hidle, _, hdue, rfl⟩
    exact ⟨fun _ => hissued, fun hne => absurd hkeylen hne, fun hne => absurd hshift hne, fun hne => absurd hoperand hne,
      fun j hne => absurd (congrArg (·[j]) hkey) hne, fun _ => .inl hissued, fun _ => .inl hissued, fun _ => .inl hissued⟩
  | complete hbusy hpend =>
    refine .inr ?_
    intro written issued completed
    have hcompleted : completed := ⟨hbusy, rfl, _, hpend⟩
    exact ⟨fun hne => absurd rfl hne, fun hne => absurd rfl hne, fun hne => absurd rfl hne, fun hne => absurd rfl hne,
      fun j hne => absurd rfl hne, fun _ => .inr hcompleted, fun _ => .inr hcompleted, fun _ => .inr hcompleted⟩

/-- Settles O30: each case of a command's step keeps the inputs and the world, and the input bytes are the inputs'. -/
theorem commandFrame : Obligations.CommandFrame := by
  unfold Obligations.CommandFrame
  intro i s t h
  have hinputs := exec_sameInputs h
  refine ⟨hinputs, exec_sameWorld h, fun off hcmd hstatus hres => Block.readOffset_of_sameInputs hinputs hcmd hstatus hres,
    fun hbusy => exec_cmd_of_busy hbusy h, fun hbusy hpend => ?_⟩
  cases (exec_of_not_pending hbusy hpend).symm.trans h
  rfl

/-- Settles O5: reset replaces the block whatever it overrides, and touches nothing else. -/
theorem resetOverridesEverything : Obligations.ResetOverridesEverything := fun s _ =>
  ⟨s.withBlock Block.reset, rfl, rfl, rfl, Block.noResults_clearResults Block.reset, rfl, rfl, rfl, rfl, rfl⟩

/-- Settles O7: the reset block meets every clause of the invariant. -/
theorem resetMeetsTheInvariant : Obligations.ResetMeetsTheInvariant := Block.inv_reset

/-- Settles O31: a CMD write is an issue of its byte, and the engine's move is the step of the command in progress. -/
theorem stepRunsTheDecodedCommand : Obligations.StepRunsTheDecodedCommand := by
  unfold Obligations.StepRunsTheDecodedCommand
  refine fun s => ⟨fun v i hidle hdecode => ?_, fun L hbusy hpend => ?_, fun L hbusy hpend hsched => ?_⟩
  · rw [step_hostWrites_cmd, issueByte_command hidle (commandOf_of_decode_single hdecode)]
  · rw [step_engineMoves, engineTurn_complete hbusy hpend, exec_complete hbusy hpend]
  · rw [step, hsched, engineTurn_complete hbusy hpend, exec_complete hbusy hpend]

/-- Settles O32: `withFetchWord` is a CMD write in the state with no command in progress. -/
theorem fetchWordRunsItsCommand : Obligations.FetchWordRunsItsCommand := by
  unfold Obligations.FetchWordRunsItsCommand
  intro s w i hw
  obtain ⟨hworld, hinputs⟩ := s.withNoCommand_frame
  refine ⟨s.withNoCommand, ?_, hworld, s.withNoCommand_busy, hinputs, State.withNoCommand_of_idle⟩
  rw [State.withFetchWord_eq, step_hostWrites_cmd,
    issueByte_command s.withNoCommand_busy (commandOf_of_decodeTableWord hw)]

end Sys2Proof.Machine
end

section
/-! The commands from issue to results (40_commands.md): an accepted issue and its completion leave exactly the results of
the latched inputs, a failing one leaves none; and from these the statement of each command. -/

namespace Sys2Proof.Machine

/-! ## Issue and completion of any command (40_commands.md R121, R125, R127) -/

theorem exec_accept {s : State} {i : Instr} (hidle : s.block.busy = false)
    (hvalid : validateOp i (s.block.latch i) = .noError) :
    exec i s = .next (s.withBlock (s.block.accept (encodeByte i) (s.block.latch i))) := by
  rw [exec_eq, commandStep_issue hidle, Block.issue, if_pos hvalid]

theorem exec_reject {s : State} {i : Instr} {code : ErrCode} (hidle : s.block.busy = false)
    (hcode : validateOp i (s.block.latch i) = code) (hne : code ≠ .noError) :
    exec i s = .next (s.withBlock (s.block.errorEntry (encodeByte i) code)) := by
  rw [exec_eq, commandStep_issue hidle, hcode, Block.issue, if_neg hne]

/-- A completion on cleared results leaves exactly the results of the command. -/
theorem Block.NoResults.holdsResults_complete {b : Block} (hb : b.NoResults) (r : Results) :
    (b.complete r).HoldsResults r := by
  refine ⟨rfl, ?_, fun j => ?_, fun k => ?_⟩
  · rw [Block.complete_primResult, hb.prim]
  · rw [Block.complete_subkey_getD, hb.subkeys j]
    split_ifs with hj
    · rfl
    · rw [List.getD_eq_default _ _ (by omega)]
      rfl
  · rw [Block.complete_roundkey_getD, hb.roundkeys k]
    split_ifs with hk
    · rfl
    · rw [List.getD_eq_default _ _ (by omega)]

/-- From an idle state command `i` is accepted, and its completion leaves exactly the results `r`. -/
def State.RunsToDone (s : State) (i : Instr) (r : Results) : Prop :=
  ∃ t u, exec i s = .next t ∧ t.block.status = 0x01 ∧ t.block.NoResults ∧ exec i t = .next u ∧ u.sameWorld s ∧
    u.block.sameInputs s.block ∧ u.block.cmd = encodeByte i ∧ u.block.status = 0x02 ∧ u.block.pend = none ∧
    u.block.HoldsResults r

theorem State.runsToDone {s : State} {i : Instr} (hidle : s.block.busy = false)
    (hvalid : validateOp i (s.block.latch i) = .noError) : s.RunsToDone i (computeOp i (s.block.latch i)) := by
  have hdone : exec i (s.withBlock (s.block.accept (encodeByte i) (s.block.latch i))) = _ :=
    exec_complete (L := s.block.latch i) (Block.busy_accept _ _ _) rfl
  exact ⟨_, _, exec_accept hidle hvalid, rfl, Block.noResults_accept _ _ _, hdone, ⟨rfl, rfl, rfl, rfl, rfl⟩,
    ⟨rfl, rfl, rfl, rfl⟩, rfl, rfl, rfl, (Block.noResults_accept _ _ _).holdsResults_complete _⟩

/-- A command that its check refuses fails at once with the check's code and no results (40_commands.md R125). -/
theorem exec_fails {s : State} {i : Instr} {code : ErrCode} (hidle : s.block.busy = false)
    (hcode : validateOp i (s.block.latch i) = code) (hne : code ≠ .noError) :
    ∃ t, exec i s = .next t ∧ t.block.status = statusError code ∧ t.block.NoResults ∧ t.block.pend = none ∧
      t.block.cmd = encodeByte i :=
  ⟨_, exec_reject hidle hcode hne, rfl, Block.noResults_errorEntry _ _ _, rfl, rfl⟩

/-! ## The checks of the commands, on the registers (40_commands.md R123) -/

theorem validateDesKs_eq (L : Latched) : validateDesKs L = if L.keylen = 8 then .noError else .invalidKeyLength := by
  simp [validateDesKs, checkKeyLength, ← BitVec.toNat_inj]

theorem validateTdesKs_eq (L : Latched) :
    validateTdesKs L = if L.keylen = 16 ∨ L.keylen = 24 then .noError else .invalidKeyLength := by
  simp [validateTdesKs, checkKeyLength, ← BitVec.toNat_inj]

theorem validateAesKe_eq (L : Latched) :
    validateAesKe L = if L.keylen = 16 ∨ L.keylen = 24 ∨ L.keylen = 32 then .noError else .invalidKeyLength := by
  simp [validateAesKe, checkKeyLength, ← BitVec.toNat_inj]

/-! ## The results of the commands -/

/-- 43_tdes.md R191: the parts of the latched key, in both modes. -/
theorem Latched.tdesSplit_keyBytes {L : Latched} (h : L.keylen = 16 ∨ L.keylen = 24) :
    tdesSplit L.keyBytes = (slice L.key.toList 0 8, slice L.key.toList 8 16,
      if L.keylen = 16 then slice L.key.toList 0 8 else slice L.key.toList 16 24) := by
  obtain ⟨two, three⟩ := tdesSplitByLength L
  rcases h with h | h
  · rw [two h, if_pos h]
  · rw [three h, if_neg (by simp [h])]

/-- Subkey `j` of each of the three schedules (43_tdes.md R192). -/
theorem computeTdesKs_getD {L : Latched} {k1 k2 k3 : List Byte} (hsplit : tdesSplit L.keyBytes = (k1, k2, k3)) (j : Fin 16) :
    (computeTdesKs L).subkeys.getD j 0 = (desKeySchedule k1).getD j 0 ∧
      (computeTdesKs L).subkeys.getD (16 + j) 0 = (desKeySchedule k2).getD j 0 ∧
      (computeTdesKs L).subkeys.getD (32 + j) 0 = (desKeySchedule k3).getD j 0 := by
  have hsub : (computeTdesKs L).subkeys = desKeySchedule k1 ++ desKeySchedule k2 ++ desKeySchedule k3 := by
    simp [computeTdesKs, tripleDesKeySchedule, hsplit]
  have hget := getD_append_three (zs := desKeySchedule k3) (desKeySchedule_length k1) (desKeySchedule_length k2)
  refine ⟨?_, ?_, ?_⟩
  · rw [hsub, hget, if_pos j.isLt]
  · rw [hsub, hget, if_neg (by omega), if_pos (by omega), Nat.add_sub_cancel_left]
  · rw [hsub, hget, if_neg (by omega), if_neg (by omega), Nat.add_sub_cancel_left]

/-- The number of round keys of the latched key: Nr + 1 (44_aes.md R224). -/
theorem Latched.aesKeyExpansion_length {L : Latched} (h : L.keylen = 16 ∨ L.keylen = 24 ∨ L.keylen = 32) :
    (aesKeyExpansion L.keyBytes).length = if L.keylen = 16 then 11 else if L.keylen = 24 then 13 else 15 := by
  have hbytes : L.keyBytes.length = L.keylen.toNat :=
    Latched.keyBytes_length (by rcases h with h | h | h <;> simp [h])
  rw [Machine.aesKeyExpansion_length, hbytes]
  rcases h with h | h | h <;> rw [h] <;> decide

/-! ## The obligations -/

/-- Settles O36: only KEYLEN = 8 passes the check, and the results of DES_KS are the 16 subkeys. -/
theorem desKsRunsToDone : Obligations.DesKsRunsToDone := by
  unfold Obligations.DesKsRunsToDone
  refine fun s hidle => ⟨fun hlen => ?_, fun hlen => ?_⟩
  · have hvalid : validateOp .desKs (s.block.latch .desKs) = .noError := (validateDesKs_eq _).trans (if_pos hlen)
    obtain ⟨t, u, hissue, hbusy, hnone, hdone, hworld, hinputs, hcmd, hstatus, hpend, hcount, hprim, hsub, hround⟩ :=
      State.runsToDone hidle hvalid
    exact ⟨t, u, hissue, hbusy, hnone, hdone, hworld, hinputs, hcmd, hstatus, hpend, hcount, hprim, hround,
      desKeySchedule_length _, hsub⟩
  · have hcode : validateOp .desKs (s.block.latch .desKs) = .invalidKeyLength := (validateDesKs_eq _).trans (if_neg hlen)
    exact exec_fails hidle hcode (by decide)

/-- Settles O37: KEYLEN = 16 and 24 pass the check, and the three schedules stand one after the other, 16 subkeys each. -/
theorem tdesKsRunsToDone : Obligations.TdesKsRunsToDone := by
  unfold Obligations.TdesKsRunsToDone
  refine fun s hidle => ⟨fun hlen => ?_, fun h16 h24 => ?_⟩
  · have hvalid : validateOp .tdesKs (s.block.latch .tdesKs) = .noError := (validateTdesKs_eq _).trans (if_pos hlen)
    have hsplit := Latched.tdesSplit_keyBytes (L := s.block.latch .tdesKs) hlen
    obtain ⟨t, u, hissue, hbusy, hnone, hdone, hworld, hinputs, hcmd, hstatus, hpend, hcount, hprim, hsub, hround⟩ :=
      State.runsToDone hidle hvalid
    refine ⟨t, u, hissue, hbusy, hnone, hdone, hworld, hinputs, hcmd, hstatus, hpend, hcount, hprim, hround, fun j => ?_⟩
    obtain ⟨h1, h2, h3⟩ := computeTdesKs_getD hsplit j
    have entry {n : Nat} (hn : n < 48) {x : Subkey} (hx : (computeTdesKs (s.block.latch .tdesKs)).subkeys.getD n 0 = x) :
        u.block.subkey[n] = x.setWidth 64 := (hsub ⟨n, hn⟩).trans (congrArg (BitVec.setWidth 64) hx)
    exact ⟨entry (by omega) h1, entry (by omega) h2, entry (by omega) h3⟩
  · have hcode : validateOp .tdesKs (s.block.latch .tdesKs) = .invalidKeyLength :=
      (validateTdesKs_eq _).trans (if_neg (not_or.mpr ⟨h16, h24⟩))
    exact exec_fails hidle hcode (by decide)

/-- Settles O38: KEYLEN = 16, 24 and 32 pass the check, and the count of round keys is Nr + 1. -/
theorem aesKeRunsToDone : Obligations.AesKeRunsToDone := by
  unfold Obligations.AesKeRunsToDone
  refine fun s hidle => ⟨fun hlen => ?_, fun h16 h24 h32 => ?_⟩
  · have hvalid : validateOp .aesKe (s.block.latch .aesKe) = .noError := (validateAesKe_eq _).trans (if_pos hlen)
    have hrk := Latched.aesKeyExpansion_length (L := s.block.latch .aesKe) hlen
    obtain ⟨t, u, hissue, hbusy, hnone, hdone, hworld, hinputs, hcmd, hstatus, hpend, hcount, hprim, hsub, hround⟩ :=
      State.runsToDone hidle hvalid
    exact ⟨t, u, hissue, hbusy, hnone, hdone, hworld, hinputs, hcmd, hstatus, hpend,
      hcount.trans (congrArg (BitVec.ofNat 8) hrk), hrk, hprim, hsub, hround⟩
  · have hcode : validateOp .aesKe (s.block.latch .aesKe) = .invalidKeyLength :=
      (validateAesKe_eq _).trans (if_neg (not_or.mpr ⟨h16, not_or.mpr ⟨h24, h32⟩⟩))
    exact exec_fails hidle hcode (by decide)

/-- Settles O39: each check is a bound on OPERAND and SHIFT, and the rotation of ROTL28 is the library's. -/
theorem primitivesRunToDone : Obligations.PrimitivesRunToDone := by
  unfold Obligations.PrimitivesRunToDone
  intro done failed s hidle
  have done_of_valid {i : Instr} {w : Nat} {v : BitVec w} (hvalid : validateOp i (s.block.latch i) = .noError)
      (hresult : computeOp i (s.block.latch i) = primResults v) : done i s (v.setWidth 64) := by
    obtain ⟨t, u, hissue, hbusy, hnone, hdone, hworld, hinputs, hcmd, hstatus, hpend, hcount, hprim, hsub, hround⟩ :=
      hresult ▸ State.runsToDone hidle hvalid
    exact ⟨t, u, hissue, hbusy, hnone, hdone, hworld, hinputs, hcmd, hstatus, hpend, hcount, hprim, hsub, hround⟩
  refine ⟨done_of_valid rfl rfl, fun hlt => ?_, fun hge => ?_, fun hlt hshift => ?_, fun hbad => ?_⟩
  · refine done_of_valid ((validatePermutePc2_eq _).trans (if_neg (Nat.not_le.mpr hlt))) ?_
    exact congrArg (fun x => primResults (permutePc2 x)) (Latched.source56_eq_setWidth _)
  · have hcode : validateOp .permutePc2 (s.block.latch .permutePc2) = .invalidOperand :=
      (validatePermutePc2_eq _).trans (if_pos hge)
    exact exec_fails hidle hcode (by decide)
  · have hcount : s.block.shift.toNat = 1 ∨ s.block.shift.toNat = 2 := by simpa [← BitVec.toNat_inj] using hshift
    have hgood : ¬((s.block.shift.toNat ≠ 1 ∧ s.block.shift.toNat ≠ 2) ∨ 2 ^ 28 ≤ s.block.operand.toNat) := by omega
    refine done_of_valid ((validateRotl28_eq _).trans (if_neg hgood)) ?_
    rw [← rotateLeft28_eq_rotateLeft _ (by omega)]
    exact congrArg (fun x => primResults (rotateLeft28 x s.block.shift.toNat)) (Latched.value28_eq_setWidth _)
  · have hbad' : (s.block.shift.toNat ≠ 1 ∧ s.block.shift.toNat ≠ 2) ∨ 2 ^ 28 ≤ s.block.operand.toNat := by
      simpa [← BitVec.toNat_inj] using hbad.symm
    have hcode : validateOp .rotl28 (s.block.latch .rotl28) = .invalidOperand := (validateRotl28_eq _).trans (if_pos hbad')
    exact exec_fails hidle hcode (by decide)

/-- Settles O6: the zero inputs of the reset block decide each command's check. -/
theorem issueRightAfterReset : Obligations.IssueRightAfterReset := by
  unfold Obligations.IssueRightAfterReset
  intro s i hreset
  have hidle : s.block.busy = false := hreset ▸ Block.busy_reset
  have accepted (hvalid : validateOp i (Block.reset.latch i) = .noError) :
      ∃ t, exec i s = .next t ∧ t.block.cmd = encodeByte i ∧ t.block.status = statusBusy :=
    ⟨_, exec_accept hidle (hreset ▸ hvalid), rfl, rfl⟩
  have refused {code : ErrCode} (hcode : validateOp i (Block.reset.latch i) = code) (hne : code ≠ .noError) :
      ∃ t, exec i s = .next t ∧ t.block.cmd = encodeByte i ∧ t.block.status = statusError code :=
    ⟨_, exec_reject hidle (hreset ▸ hcode) hne, rfl, rfl⟩
  cases i with
  | desKs => exact refused (code := .invalidKeyLength) (by decide) (by decide)
  | tdesKs => exact refused (code := .invalidKeyLength) (by decide) (by decide)
  | aesKe => exact refused (code := .invalidKeyLength) (by decide) (by decide)
  | permutePc1 => exact accepted (by decide)
  | permutePc2 => exact accepted (by decide)
  | rotl28 => exact refused (code := .invalidOperand) (by decide) (by decide)

end Sys2Proof.Machine
end

section
/-! Runs of several steps: host reads that return the registers' bytes (70_reset_and_hazards.md R285), two issues in a row,
progress to completion or reset (40_commands.md R129), and runs without issues. -/

namespace Sys2Proof.Machine

/-! ## Runs of host reads (20_memory.md R62) -/

theorem step_hostReads_readOffset {s : State} {off : Nat} {v : Byte} (hread : s.block.readOffset off = some v)
    (hfree : ¬(s.block.busy = true ∧ resultOffset off)) : step (s.hostReads off) = .next (s.respond off v) := by
  obtain ⟨slot, hslot, rfl⟩ := Option.map_eq_some_iff.mp hread
  rw [← isResult_iff_of_slotOf hslot, ← Bool.and_eq_true] at hfree
  rw [step_hostReads_slot hslot, if_neg hfree]

/-- The byte read at the window offset of a cell, as an event of a schedule. -/
def readEvent (base : Nat) (cell : Host.Cell) : Event := .act (.read (base + cell.1) 8)

/-- The cell holds the byte that a host read of its offset returns. -/
def State.ReadsCell (s : State) (cell : Host.Cell) : Prop :=
  s.block.readOffset cell.1 = some cell.2 ∧ ¬(s.block.busy = true ∧ resultOffset cell.1)

/-- Host reads change nothing but the list of reads. -/
theorem runSteps_reads {s : State} {cells : List Host.Cell} (hcells : ∀ c ∈ cells, s.ReadsCell c) (rest : List Event) :
    runSteps cells.length { s with schedule := cells.map (readEvent s.kseBase) ++ rest } =
      .next { s with schedule := rest, reads := cells.reverse ++ s.reads } := by
  induction cells generalizing s with
  | nil => rfl
  | cons c cells ih =>
    obtain ⟨⟨hread, hfree⟩, hrest⟩ := List.forall_mem_cons.mp hcells
    have hstep :=
      step_hostReads_readOffset (s := { s with schedule := cells.map (readEvent s.kseBase) ++ rest }) hread hfree
    refine (runSteps_next _ hstep).trans ((ih (s := { s with reads := c :: s.reads }) hrest).trans ?_)
    rw [List.reverse_cons, List.append_assoc, List.singleton_append]

/-- The bytes of a register at window offset `off`, in the order of their offsets. -/
def registerCells {w : Nat} (off n : Nat) (v : BitVec w) : List Host.Cell :=
  (List.range n).map fun k => (off + k, beByte v k)

/-- The bytes of a register, read one after the other while BUSY = 0, put together are the register. -/
theorem State.readsGive_of_bytes {s : State} {off n : Nat} {v : BitVec (8 * n)} (hidle : s.block.busy = false)
    (hread : ∀ k < n, s.block.readOffset (off + k) = some (beByte v k)) : s.ReadsGive off n v := by
  have hcells : ∀ c ∈ registerCells off n v, s.ReadsCell c := by
    intro c hc
    obtain ⟨k, hk, rfl⟩ := List.mem_map.mp hc
    exact ⟨hread k (List.mem_range.mp hk), by simp [hidle]⟩
  have hrun := runSteps_reads hcells []
  rw [List.append_nil, registerCells, List.map_map, List.length_map, List.length_range] at hrun
  refine ⟨_, hrun, rfl, (List.range n).map (beByte v), by simp, beBits_map_beByte n v, ?_⟩
  simp [List.zipWith_map_right]

/-! ## The steps of a schedule of issues and engine moves -/

theorem errorFlag_statusError (code : ErrCode) : errorFlag (statusError code) = true := by cases code <;> decide

theorem step_cmdWrite {s : State} {v : Byte} {rest : List Event}
    (hsched : s.schedule = .act (.write (s.kseBase + 0x000) 8 v) :: rest) : step s = issueByte v s.popped :=
  (step_of_schedule_cons hsched).trans (step_hostWrites_cmd s.popped v)

theorem step_cmdWrite_accept {s : State} {i : Instr} {rest : List Event}
    (hsched : s.schedule = .act (.write (s.kseBase + 0x000) 8 (encodeByte i)) :: rest) (hidle : s.block.busy = false)
    (hvalid : validateOp i (s.block.latch i) = .noError) :
    step s = .next (s.popped.withBlock (s.block.accept (encodeByte i) (s.block.latch i))) := by
  rw [step_cmdWrite hsched, issueByte_command (s := s.popped) hidle (commandOf_encodeByte i)]
  exact exec_accept (s := s.popped) hidle hvalid

theorem step_cmdWrite_reject {s : State} {i : Instr} {rest : List Event}
    (hsched : s.schedule = .act (.write (s.kseBase + 0x000) 8 (encodeByte i)) :: rest) (hidle : s.block.busy = false)
    (hfail : validateOp i (s.block.latch i) ≠ .noError) :
    step s = .next (s.popped.withBlock (s.block.errorEntry (encodeByte i) (validateOp i (s.block.latch i)))) := by
  rw [step_cmdWrite hsched, issueByte_command (s := s.popped) hidle (commandOf_encodeByte i)]
  exact exec_reject (s := s.popped) hidle rfl hfail

theorem step_cmdWrite_busy {s : State} {v : Byte} {rest : List Event}
    (hsched : s.schedule = .act (.write (s.kseBase + 0x000) 8 v) :: rest) (hbusy : s.block.busy = true) :
    step s = .next s.popped :=
  (step_cmdWrite hsched).trans (issueByte_busy (s := s.popped) hbusy v)

/-- What the issue of a command leaves, valid or not (40_commands.md R121, R125). -/
theorem step_cmdWrite_idle {s : State} {i : Instr} {rest : List Event}
    (hsched : s.schedule = .act (.write (s.kseBase + 0x000) 8 (encodeByte i)) :: rest) (hidle : s.block.busy = false) :
    ∃ t, step s = .next t ∧ t.block.cmd = encodeByte i ∧ t.block.NoResults ∧
      (validateOp i (s.block.latch i) = .noError → t.block.status = 0x01 ∧ t.block.pend = some (s.block.latch i)) ∧
      (validateOp i (s.block.latch i) ≠ .noError → errorFlag t.block.status = true ∧ t.block.pend = none) := by
  by_cases hvalid : validateOp i (s.block.latch i) = .noError
  · exact ⟨_, step_cmdWrite_accept hsched hidle hvalid, rfl, Block.noResults_accept _ _ _, fun _ => ⟨rfl, rfl⟩,
      fun h => absurd hvalid h⟩
  · exact ⟨_, step_cmdWrite_reject hsched hidle hvalid, rfl, Block.noResults_errorEntry _ _ _, fun h => absurd h hvalid,
      fun _ => ⟨errorFlag_statusError _, rfl⟩⟩

theorem step_engine_complete {s : State} {L : Latched} {rest : List Event} (hsched : s.schedule = .act .engine :: rest)
    (hbusy : s.block.busy = true) (hpend : s.block.pend = some L) :
    step s = .next (s.popped.withBlock (s.block.complete (computeOp L.op L))) :=
  (step_of_schedule_cons hsched).trans (engineTurn_complete (s := s.popped) hbusy hpend)

/-- The block after command `i` was issued and completed, from the inputs of `b`. -/
def Block.issuedAndCompleted (b : Block) (i : Instr) : Block :=
  (b.accept (encodeByte i) (b.latch i)).complete (computeOp i (b.latch i))

theorem runSteps_issue_complete {s : State} {i : Instr} {rest : List Event}
    (hsched : s.schedule = .act (.write (s.kseBase + 0x000) 8 (encodeByte i)) :: .act .engine :: rest)
    (hidle : s.block.busy = false) (hvalid : validateOp i (s.block.latch i) = .noError) :
    runSteps 2 s = .next (s.popped.popped.withBlock (s.block.issuedAndCompleted i)) := by
  have hissue := step_cmdWrite_accept hsched hidle hvalid
  have hengine := step_engine_complete (s := s.popped.withBlock (s.block.accept (encodeByte i) (s.block.latch i)))
    (rest := rest) (by simp [hsched]) (Block.busy_accept _ _ _) rfl
  exact (runSteps_next 1 hissue).trans (runSteps_next 0 hengine)

/-- A CMD write between the issue and the completion is lost (40_commands.md R126). -/
theorem runSteps_issue_lost_complete {s : State} {i : Instr} {v : Byte} {rest : List Event}
    (hsched : s.schedule = .act (.write (s.kseBase + 0x000) 8 (encodeByte i)) ::
      .act (.write (s.kseBase + 0x000) 8 v) :: .act .engine :: rest)
    (hidle : s.block.busy = false) (hvalid : validateOp i (s.block.latch i) = .noError) :
    runSteps 3 s = .next (s.popped.popped.popped.withBlock (s.block.issuedAndCompleted i)) := by
  have hissue := step_cmdWrite_accept hsched hidle hvalid
  have hlost := step_cmdWrite_busy (s := s.popped.withBlock (s.block.accept (encodeByte i) (s.block.latch i)))
    (v := v) (rest := .act .engine :: rest) (by simp [hsched]) (Block.busy_accept _ _ _)
  have hengine := step_engine_complete (s := (s.popped.withBlock (s.block.accept (encodeByte i) (s.block.latch i))).popped)
    (rest := rest) (by simp [hsched]) (Block.busy_accept _ _ _) rfl
  exact (runSteps_next 2 hissue).trans ((runSteps_next 1 hlost).trans (runSteps_next 0 hengine))

/-! ## Progress (40_commands.md R129; log entry 17) -/

/-- A run from a BUSY block with cleared results meets a bus error, a reset or the completion, by induction on the
schedule: an event that is none of the three leaves the command in progress. -/
theorem runSteps_busy_finishes {s : State} {L : Latched} (hbusy : s.block.busy = true) (hpend : s.block.pend = some L)
    (hnone : s.block.NoResults) :
    ∃ k ≤ s.schedule.length + 1, (∃ f, runSteps k s = .fault f) ∨
      ∃ t, runSteps k s = .next t ∧ (t.block = Block.reset ∨
        (t.block.status = 0x02 ∧ t.block.cmd = s.block.cmd ∧ t.block.HoldsResults (computeOp L.op L))) := by
  induction hsched : s.schedule generalizing s with
  | nil =>
    have hstep : step s = .next (s.withBlock (s.block.complete (computeOp L.op L))) := by
      rw [step, hsched, engineTurn_complete hbusy hpend]
    exact ⟨1, by simp, .inr ⟨_, runSteps_next 0 hstep, .inr ⟨rfl, rfl, hnone.holdsResults_complete _⟩⟩⟩
  | cons e rest ih =>
    rcases step_outcome s with ⟨_, f, hf⟩ | ⟨_, t, ht⟩
    · exact ⟨1, by omega, .inl ⟨f, runSteps_fault 0 hf⟩⟩
    rcases step_of_busy hbusy hpend ht with ⟨hbusy', hpend', hcmd, hres⟩ | hdone | hreset
    · have hrest : t.schedule = rest := by rw [(step_place ht).2, hsched, List.tail_cons]
      obtain ⟨k, hk, hrun⟩ := ih hbusy' hpend' (Block.noResults_of_sameResults hres hnone) hrest
      refine ⟨k + 1, Nat.succ_le_succ hk, ?_⟩
      rw [runSteps_next k ht, ← hcmd]
      exact hrun
    · refine ⟨1, by omega, .inr ⟨t, runSteps_next 0 ht, .inr ?_⟩⟩
      rw [hdone]
      exact ⟨rfl, rfl, hnone.holdsResults_complete _⟩
    · exact ⟨1, by omega, .inr ⟨t, runSteps_next 0 ht, .inl hreset⟩⟩

/-! ## Runs of byte reads, engine moves and resets (70_reset_and_hazards.md R289) -/

/-- The event is a byte read, an engine move or a reset: no issue and no store. -/
def Event.WritesNothing (e : Event) : Prop := (∃ addr, e = .act (.read addr 8)) ∨ e = .act .engine ∨ ∃ a, e = .reset a

theorem handle_of_writesNothing {s t : State} {e : Event} (he : e.WritesNothing) (hidle : s.block.busy = false)
    (h : handle e s = .next t) : t.block = s.block ∧ (∀ a, e ≠ .reset a) ∨ t.block = Block.reset := by
  rcases he with ⟨addr, rfl⟩ | rfl | ⟨a, rfl⟩
  · exact .inl ⟨hostRead_block h, nofun⟩
  · cases (engineTurn_idle hidle).symm.trans h
    exact .inl ⟨rfl, nofun⟩
  · cases h
    exact .inr rfl

/-- Such a run of an idle block leaves the block as it is and has no reset in it, or leaves the reset block. -/
theorem runSteps_of_writesNothing {s t : State} (hevs : ∀ e ∈ s.schedule, e.WritesNothing) (hidle : s.block.busy = false)
    (h : runSteps s.schedule.length s = .next t) :
    t.block = s.block ∧ (∀ a, Event.reset a ∉ s.schedule) ∨ t.block = Block.reset := by
  induction hsched : s.schedule generalizing s with
  | nil =>
    rw [hsched] at h
    cases h
    exact .inl ⟨rfl, by simp⟩
  | cons e rest ih =>
    rw [hsched] at h hevs
    obtain ⟨he, hrest⟩ := List.forall_mem_cons.mp hevs
    rcases step_outcome s with ⟨_, f, hf⟩ | ⟨_, u, hu⟩
    · cases (runSteps_fault _ hf).symm.trans h
    have husched : u.schedule = rest := by rw [(step_place hu).2, hsched, List.tail_cons]
    rw [List.length_cons, runSteps_next _ hu, ← husched] at h
    have hhandle := handle_of_writesNothing (s := s.popped) he hidle ((step_of_schedule_cons hsched).symm.trans hu)
    have huidle : u.block.busy = false := by
      rcases hhandle with ⟨hkeep, _⟩ | hreset
      · exact hkeep ▸ hidle
      · exact hreset ▸ Block.busy_reset
    rcases ih (husched ▸ hrest) huidle h husched with ⟨hkeep, hno⟩ | hreset
    · rcases hhandle with ⟨hkeep', hno'⟩ | hreset'
      · exact .inl ⟨hkeep.trans hkeep', fun a ha => (List.mem_cons.mp ha).elim (fun h => hno' a h.symm) (hno a)⟩
      · exact .inr (hkeep.trans hreset')
    · exact .inr hreset

/-! ## The obligations -/

/-- Settles O25: a BUSY block of the invariant has cleared results and its command's byte in CMD. -/
theorem everyBusyCommandFinishes : Obligations.EveryBusyCommandFinishes := by
  unfold Obligations.EveryBusyCommandFinishes
  intro s L hinv hpend
  have hbusy := hinv.busy_of_pend hpend
  obtain ⟨_, hcmd⟩ := hinv.pend_valid L hpend
  rw [← hcmd]
  exact runSteps_busy_finishes hbusy hpend (hinv.noResults_of_busy hbusy)

/-- Settles O26: reads of STATUS change nothing of the block, so the engine's move after them completes the command. -/
theorem latencyIsUnbounded : Obligations.LatencyIsUnbounded := by
  unfold Obligations.LatencyIsUnbounded
  intro s L n hbusy hpend polls
  have hcells : ∀ c ∈ List.replicate n (0x001, s.block.status), s.ReadsCell c := by
    intro c hc
    obtain rfl := List.eq_of_mem_replicate hc
    exact ⟨rfl, by simp [resultOffset]⟩
  have hpolls := runSteps_reads hcells [.act .engine]
  rw [List.length_replicate, List.map_replicate, List.reverse_replicate] at hpolls
  exact ⟨_, _, hpolls, rfl, rfl,
    (runSteps_add n 1 hpolls).trans (runSteps_next 0 (step_engine_complete rfl hbusy hpend)), rfl⟩

/-- Settles O33: while the first command is in progress a CMD write does nothing; after it, it is an issue of its own. -/
theorem secondIssueIsLostOrClears : Obligations.SecondIssueIsLostOrClears := by
  unfold Obligations.SecondIssueIsLostOrClears
  intro s i j hidle hvalid w
  have hnone := Block.noResults_accept s.block (encodeByte i) (s.block.latch i)
  refine ⟨⟨_, _, runSteps_issue_lost_complete (v := encodeByte j) rfl hidle hvalid,
    runSteps_issue_complete (rest := []) rfl hidle hvalid, rfl, rfl, rfl, hnone.holdsResults_complete _⟩, ?_⟩
  have hfirst := runSteps_issue_complete (s := { s with schedule := [w i, .act .engine, w j] }) rfl hidle hvalid
  obtain ⟨t, hsecond, hleaves⟩ := step_cmdWrite_idle
    (s := State.withBlock { s with schedule := [w j] } (s.block.issuedAndCompleted i)) rfl (Block.busy_complete _ _)
  exact ⟨t, (runSteps_add 2 1 hfirst).trans (runSteps_next 0 hsecond), hleaves⟩

/-- Settles O34: the eight bytes of an entry are read off its slots. -/
theorem subkeyReadsGiveOneValue : Obligations.SubkeyReadsGiveOneValue := by
  unfold Obligations.SubkeyReadsGiveOneValue
  intro s j hidle
  exact State.readsGive_of_bytes (n := 8) hidle fun k hk =>
    s.block.readOffset_of_offset (slot := .subkey j ⟨k, hk⟩) rfl

/-- Settles O58: the bytes of a round key and of PRIM_RESULT are read off their slots. -/
theorem roundKeyAndPrimResultReadsGiveOneValue : Obligations.RoundKeyAndPrimResultReadsGiveOneValue := by
  unfold Obligations.RoundKeyAndPrimResultReadsGiveOneValue
  refine fun s hidle => ⟨fun r => ?_, ?_⟩
  · exact State.readsGive_of_bytes (n := 16) hidle fun k hk =>
      s.block.readOffset_of_offset (slot := .roundkey r ⟨k, hk⟩) rfl
  · exact State.readsGive_of_bytes (n := 8) hidle fun k hk =>
      s.block.readOffset_of_offset (slot := .primResult ⟨k, hk⟩) rfl

/-- Settles O35: a run with a reset in it ends with the reset block, whose STATUS is 0x00. -/
theorem doneStillThereMeansNoReset : Obligations.DoneStillThereMeansNoReset := by
  unfold Obligations.DoneStillThereMeansNoReset
  intro s t evs hdone hevs hrun hstatus
  have hidle : s.block.busy = false := (congrArg busyFlag hdone).trans busyFlag_done
  rcases runSteps_of_writesNothing (s := { s with schedule := evs }) hevs hidle hrun with hkeep | hreset
  · exact hkeep
  · rw [hreset] at hstatus
    cases hstatus

end Sys2Proof.Machine
end

section
/-! The key schedules in closed form: the subkeys of DES round by round (42_des.md), the bits of the key that they determine
(43_tdes.md), and the first round keys of AES (44_aes.md). -/

namespace Sys2Proof.Machine

/-! ## The DES schedule in closed form (42_des.md R172) -/

/-- The rotation of both halves in round `r`, counted from 0: the sum of the counts up to it. -/
def roundRotation (r : Nat) : Nat := (rot.take (r + 1)).sum

/-- The subkey that one round makes of C0 and D0 rotated by `n`. -/
def rotatedSubkey (c d : Half) (n : Nat) : Subkey := permutePc2 (c.rotateLeft n ++ d.rotateLeft n : BitVec 56)

theorem desRounds_getD {counts : List Nat} (hlt : ∀ n ∈ counts, n < 28) (c d : Half) {r : Nat} (hr : r < counts.length) :
    (desRounds counts c d).getD r 0 = rotatedSubkey c d (counts.take (r + 1)).sum := by
  induction counts generalizing c d r with
  | nil => simp at hr
  | cons n counts ih =>
    obtain ⟨hn, hrest⟩ := List.forall_mem_cons.mp hlt
    rw [desRounds, rotateLeft28_eq_rotateLeft c hn, rotateLeft28_eq_rotateLeft d hn]
    cases r with
    | zero => simp [rotatedSubkey]
    | succ r =>
      rw [List.getD_cons_succ, ih hrest _ _ (Nat.lt_of_succ_lt_succ hr), List.take_succ_cons, List.sum_cons, rotatedSubkey,
        rotatedSubkey, rotateLeft_add, rotateLeft_add]

/-- Subkey `r` is PC-2 of C0 and D0, the halves of PC-1 of the key, rotated by the first `r + 1` counts. -/
theorem desSchedule64_getD (k : Reg64) {r : Nat} (hr : r < 16) :
    (desSchedule64 k).getD r 0 = rotatedSubkey (halfC (permutePc1 k)) (halfD (permutePc1 k)) (roundRotation r) :=
  desRounds_getD (fun _ hn => lt_of_mem_rot hn) _ _ hr

theorem halfC_eq_setWidth (k56 : BitVec 56) : halfC k56 = (k56 >>> 28).setWidth 28 := by
  rw [BitVec.setWidth_ushiftRight_eq_extractLsb]
  rfl

theorem halfD_eq_setWidth (k56 : BitVec 56) : halfD k56 = k56.setWidth 28 := BitVec.eq_of_toNat_eq rfl

/-! ## The key bits that the subkeys determine (43_tdes.md R193) -/

theorem getLsbD_eq_of_bitPermute_eq {w n : Nat} {a b : BitVec w} {table : List Nat} (hlen : table.length = n)
    (h : bitPermute n a table = bitPermute n b table) {p : Nat} (hp : p ∈ table) :
    a.getLsbD (w - p) = b.getLsbD (w - p) := by
  subst hlen
  obtain ⟨k, hk, rfl⟩ := List.getElem_of_mem hp
  have hidx : table.length - 1 - (table.length - 1 - k) = k := by omega
  have hlt : table.length - 1 - k < table.length := by omega
  simpa only [getLsbD_bitPermute_length _ table hlt, hidx] using congrArg (BitVec.getLsbD · (table.length - 1 - k)) h

/-- Every bit of C0 is selected by PC-2 in some round, rotated to one of its positions. -/
theorem pc2_selects_every_c : ∀ i < 28, ∃ r < 16, ∃ p ∈ pc2,
    28 ≤ 56 - p ∧ (56 - p - 28 + (28 - roundRotation r % 28)) % 28 = i := by decide +kernel

/-- Every bit of D0 is selected by PC-2 in some round, rotated to one of its positions. -/
theorem pc2_selects_every_d : ∀ i < 28, ∃ r < 16, ∃ p ∈ pc2,
    56 - p < 28 ∧ (56 - p + (28 - roundRotation r % 28)) % 28 = i := by decide +kernel

theorem pc1_selects_every_key_bit : ∀ n < 64, n % 8 ≠ 0 → ∃ p ∈ pc1, 64 - p = n := by decide +kernel

/-- The subkeys of the 16 rounds determine both halves. -/
theorem halves_eq_of_rotatedSubkeys {c d c' d' : Half}
    (h : ∀ r < 16, rotatedSubkey c d (roundRotation r) = rotatedSubkey c' d' (roundRotation r)) : c = c' ∧ d = d' := by
  have hbit {r p : Nat} (hr : r < 16) (hp : p ∈ pc2) := getLsbD_eq_of_bitPermute_eq pc2_wellFormed.length_eq (h r hr) hp
  simp only [BitVec.getLsbD_append] at hbit
  constructor <;> refine BitVec.eq_of_getLsbD_eq fun i hi => ?_
  · obtain ⟨r, hr, p, hp, hhigh, rfl⟩ := pc2_selects_every_c i hi
    have hpos : 56 - p - 28 < 28 := by have := pc2_wellFormed.in_range p hp; omega
    simpa only [Nat.not_lt.mpr hhigh, if_false, getLsbD_rotateLeft_eq_mod _ _ hpos] using hbit hr hp
  · obtain ⟨r, hr, p, hp, hlow, rfl⟩ := pc2_selects_every_d i hi
    simpa only [hlow, if_true, getLsbD_rotateLeft_eq_mod _ _ hlow] using hbit hr hp

theorem halfC_append_halfD (k56 : BitVec 56) : (halfC k56 ++ halfD k56 : BitVec 56) = k56 := by
  refine BitVec.eq_of_getLsbD_eq fun i hi => ?_
  rw [BitVec.getLsbD_append, halfC, halfD, BitVec.getLsbD_extractLsb', BitVec.getLsbD_extractLsb']
  by_cases hlow : i < 28
  · simp [hlow]
  · have hidx : 28 + (i - 28) = i := by omega
    have hhigh : i - 28 < 28 := by omega
    simp [hlow, hidx, hhigh]

/-- Equal schedules come from keys that agree on every bit that is not a parity bit. -/
theorem getLsbD_eq_of_desSchedule64_eq {k k' : Reg64} (h : desSchedule64 k = desSchedule64 k') {n : Nat} (hn : n < 64)
    (hparity : n % 8 ≠ 0) : k.getLsbD n = k'.getLsbD n := by
  have hrounds : ∀ r < 16, rotatedSubkey (halfC (permutePc1 k)) (halfD (permutePc1 k)) (roundRotation r) =
      rotatedSubkey (halfC (permutePc1 k')) (halfD (permutePc1 k')) (roundRotation r) := by
    intro r hr
    rw [← desSchedule64_getD k hr, h, desSchedule64_getD k' hr]
  obtain ⟨hc, hd⟩ := halves_eq_of_rotatedSubkeys hrounds
  have hpc1 : permutePc1 k = permutePc1 k' := by rw [← halfC_append_halfD (permutePc1 k), hc, hd, halfC_append_halfD]
  obtain ⟨p, hp, rfl⟩ := pc1_selects_every_key_bit n hn hparity
  exact getLsbD_eq_of_bitPermute_eq pc1_wellFormed.length_eq hpc1 hp

/-- The key bytes with their parity bits cleared. -/
def clearParity (key : List Byte) : List Byte := key.map fun b => b &&& 0xFE

/-- Two bytes with the same bits above bit 0 are equal once bit 0 is cleared. -/
theorem clearParity_byte_eq {b c : Byte} (h : ∀ i < 8, i ≠ 0 → b.getLsbD i = c.getLsbD i) : b &&& 0xFE = c &&& 0xFE := by
  refine BitVec.eq_of_getLsbD_eq fun i hi => ?_
  by_cases h0 : i = 0
  · subst h0
    simp
  · rw [getLsbD_clearParity b hi h0, getLsbD_clearParity c hi h0, h i hi h0]

theorem clearParity_eq_of_key_bits {key key' : List Byte} (hlen : key.length = 8) (hlen' : key'.length = 8)
    (h : ∀ n < 64, n % 8 ≠ 0 → (beBits 64 key).getLsbD n = (beBits 64 key').getLsbD n) :
    clearParity key = clearParity key' := by
  refine List.ext_getElem (by simp [clearParity, hlen, hlen']) fun j hj hj' => ?_
  simp only [clearParity, List.length_map] at hj hj'
  simp only [clearParity, List.getElem_map]
  refine clearParity_byte_eq fun i hi h0 => ?_
  have hbyte : 7 - (8 * (7 - j) + i) / 8 = j := by omega
  have hrem : (8 * (7 - j) + i) % 8 = i := by omega
  have hbit := h (8 * (7 - j) + i) (by omega) (by omega)
  rw [beBits_getLsbD_64 _ hlen _ (by omega), beBits_getLsbD_64 _ hlen' _ (by omega), hbyte, hrem] at hbit
  simpa [List.getD_eq_getElem?_getD, hj, hj'] using hbit

/-- The DES schedule determines exactly the key bits that are not parity bits. -/
theorem desKeySchedule_eq_iff {key key' : List Byte} (hlen : key.length = 8) (hlen' : key'.length = 8) :
    desKeySchedule key = desKeySchedule key' ↔ clearParity key = clearParity key' := by
  obtain ⟨ignored, _⟩ := parityBitsAreIgnored
  constructor
  · intro h
    exact clearParity_eq_of_key_bits hlen hlen' fun n hn hparity => getLsbD_eq_of_desSchedule64_eq h hn hparity
  · intro h
    rw [← ignored key hlen, ← ignored key' hlen']
    exact congrArg desKeySchedule h

/-! ## The two modes of Triple-DES on keys put together (43_tdes.md R190, R191) -/

theorem slice_append_right {xs ys : List Byte} {a b : Nat} (hx : xs.length = a) (hy : ys.length = b - a) :
    slice (xs ++ ys) a b = ys := by
  rw [slice, List.drop_left' hx, ← hy, List.take_length]

theorem tripleDesKeySchedule_two_keys {k1 k2 : List Byte} (h1 : k1.length = 8) (h2 : k2.length = 8) :
    tripleDesKeySchedule (k1 ++ k2) = (desKeySchedule k1, desKeySchedule k2, desKeySchedule k1) := by
  have hfirst : slice (k1 ++ k2) 0 8 = k1 := by simp [slice, h1]
  have hsecond : slice (k1 ++ k2) 8 16 = k2 := slice_append_right h1 h2
  rw [tripleDesKeySchedule, tdesSplit_two_keys (by simp [h1, h2]), hfirst, hsecond]

theorem tripleDesKeySchedule_three_keys {k1 k2 k3 : List Byte} (h1 : k1.length = 8) (h2 : k2.length = 8)
    (h3 : k3.length = 8) :
    tripleDesKeySchedule (k1 ++ k2 ++ k3) = (desKeySchedule k1, desKeySchedule k2, desKeySchedule k3) := by
  have hfirst : slice (k1 ++ k2 ++ k3) 0 8 = k1 := by simp [slice, h1]
  have hsecond : slice (k1 ++ k2 ++ k3) 8 16 = k2 := by simp [slice, h1, h2]
  have hthird : slice (k1 ++ k2 ++ k3) 16 24 = k3 := slice_append_right (by simp [h1, h2]) h3
  rw [tripleDesKeySchedule, tdesSplit_three_keys (by simp [h1, h2, h3]), hfirst, hsecond, hthird]

/-! ## The first round keys of AES (44_aes.md R225, R227) -/

theorem aesWords_beByte_of_lt {key : List Byte} {i b : Nat} (hi : i < key.length / 4) (hb : b < 4) :
    beByte ((aesWords key).getD i 0) b = key.getD (4 * i + b) 0 := by
  refine BitVec.eq_of_getLsbD_eq fun n hn => ?_
  have hbit : 32 - 8 - 8 * b + n < 32 := by omega
  rw [aesWords_getD_of_lt hi, beByte, BitVec.getLsbD_extractLsb', aesSeed_getD_getLsbD hi hbit]
  have hbyte : 3 - (32 - 8 - 8 * b + n) / 8 = b := by omega
  have hrem : (32 - 8 - 8 * b + n) % 8 = n := by omega
  simp [hn, hbyte, hrem]

/-- Where the words of a round key are the seed's, its bytes are the key's. -/
theorem aesKeyExpansion_beByte_key {key : List Byte} (hkey : key.length = 16 ∨ key.length = 24 ∨ key.length = 32)
    {r j : Nat} (hj : j < 16) (hseed : 16 * r + j < key.length) :
    beByte ((aesKeyExpansion key).getD r 0) j = key.getD (16 * r + j) 0 := by
  have hround : r < (aesKeyExpansion key).length := by
    rw [aesKeyExpansion_length, aesRounds_of_keyLength hkey]
    split_ifs <;> omega
  have hsplit : j = 4 * (j / 4) + j % 4 := by omega
  have hidx : 4 * (4 * r + j / 4) + j % 4 = 16 * r + j := by omega
  rw [aesKeyExpansion_getD hround, hsplit, aesRoundKey_beByte _ r (by omega) (by omega),
    aesWords_beByte_of_lt (by omega) (by omega), ← hsplit, hidx]

/-! ## The obligations -/

/-- Settles O44: successive rotations make one rotation by the sum of the counts. -/
theorem desScheduleClosedForm : Obligations.DesScheduleClosedForm := by
  unfold Obligations.DesScheduleClosedForm
  refine fun key _ => ⟨desKeySchedule_length key, fun r hr => ?_⟩
  rw [desKeySchedule, desSchedule64_getD _ hr, halfC_eq_setWidth, halfD_eq_setWidth]
  rfl

/-- Settles O48: the split cuts the key into its parts, and a DES schedule determines its key up to the parity bits. -/
theorem tripleDesLaws : Obligations.TripleDesLaws := by
  unfold Obligations.TripleDesLaws
  refine fun k1 k2 k3 h1 h2 h3 => ⟨fun s1 s2 s3 h => ?_, fun s1 s2 s3 h => ?_⟩
  · rw [tripleDesKeySchedule_two_keys h1 h2] at h
    cases h
    exact ⟨rfl, not_congr (desKeySchedule_eq_iff h1 h2), desKeySchedule_length _, desKeySchedule_length _,
      desKeySchedule_length _, fun k _ => k.isLt⟩
  · rw [tripleDesKeySchedule_three_keys h1 h2 h3] at h
    cases h
    exact ⟨rfl, rfl, rfl, desKeySchedule_length _, desKeySchedule_length _, desKeySchedule_length _, fun k _ => k.isLt⟩

/-- Settles O54: the words below Nk are the key's, and these round keys are made of such words. -/
theorem aesFirstRoundKeysAreTheKey : Obligations.AesFirstRoundKeysAreTheKey := by
  unfold Obligations.AesFirstRoundKeysAreTheKey
  refine fun key hkey => ⟨fun j hj => ?_, fun hlen j hj => ?_, fun hlen j hj => ?_⟩
  · simpa using aesKeyExpansion_beByte_key hkey (r := 0) hj (by omega)
  · exact aesKeyExpansion_beByte_key hkey (r := 1) hj (by omega)
  · exact aesKeyExpansion_beByte_key hkey (r := 1) (by omega) (by omega)

end Sys2Proof.Machine
end

section
/-! Hosts and platforms: the pseudo-instructions (30_encoding.md R96), one turn of POLL's loop, and the windows and states of
several blocks side by side (60_exceptions.md R265). -/

namespace Sys2Proof.Machine

/-! ## The values and the expansions of a host's program (30_encoding.md R96) -/

theorem HostAgent.value64_getLsbD (h : HostAgent) (x : Nat) {n : Nat} (hn : n < 64) :
    (h.value64 x).getLsbD n = (h.value ⟨x, 7 - n / 8⟩).getLsbD (n % 8) := by
  have hbyte : 7 - n / 8 < 8 := by omega
  rw [HostAgent.value64, beBits_getLsbD_64 _ (by simp) n hn]
  simp [hbyte]

/-! ## The turns of a host (30_encoding.md R95) -/

@[simp] theorem HostAgent.value_advance (h : HostAgent) (x : HostVar) : h.advance.value x = h.value x := rfl

@[simp] theorem HostAgent.value_receive_self (h : HostAgent) (x : HostVar) (v : Byte) : (h.receive x v).value x = v := by
  simp [HostAgent.value, HostAgent.receive]

theorem HostAgent.afterRead_respond (h : HostAgent) (x : HostVar) (s : State) (off : Nat) (v : Byte) :
    h.afterRead x s (s.respond off v) = (h.receive x v).advance := by
  simp [HostAgent.afterRead]

theorem System.hostTurn_label {y : System} {l : Nat} (h : y.host.program[y.host.pos]? = some (.label l)) :
    y.hostTurn = .next { y with host := y.host.advance } := by
  simp [System.hostTurn, h]

theorem System.hostTurn_read {y : System} {off : Nat} {x : HostVar} {v : Byte}
    (h : y.host.program[y.host.pos]? = some (.rd off x)) (hread : y.machine.block.readOffset off = some v)
    (hfree : ¬(y.machine.block.busy = true ∧ resultOffset off)) :
    y.hostTurn = .next ⟨(y.host.receive x v).advance, y.machine.respond off v⟩ := by
  have hstep : hostRead (y.machine.kseBase + off) 8 y.machine = .next (y.machine.respond off v) :=
    step_hostReads_readOffset hread hfree
  simp [System.hostTurn, h, hstep, System.afterAccess, HostAgent.afterRead_respond]

theorem System.hostTurn_branch {y : System} {x : HostVar} {m : Byte} {l : Nat}
    (h : y.host.program[y.host.pos]? = some (.bnz x m l)) :
    y.hostTurn = .next { y with host := if y.host.value x &&& m ≠ 0 then y.host.jump l else y.host.advance } := by
  simp only [System.hostTurn, h]
  split_ifs <;> rfl

/-- STATUS masked by 0x01 is nonzero exactly while BUSY (10_state.md R24). -/
theorem status_and_one_ne_zero_iff (st : Byte) : st &&& 0x01 ≠ 0 ↔ busyFlag st = true := by
  revert st
  decide +kernel

/-! ## Platforms (60_exceptions.md R265) -/

theorem Platform.block_of_mem_reset {placed : List (Nat × List Event)} {s : State}
    (h : s ∈ (Platform.reset placed).instances) : s.block = Block.reset := by
  obtain ⟨k, hk, rfl⟩ := List.mem_mapIdx.mp h
  rfl

/-- Whether the windows are apart is read off the bases alone. -/
theorem Platform.windowsApart_congr {p q : Platform} (h : q.instances.map State.kseBase = p.instances.map State.kseBase) :
    p.windowsApart ↔ q.windowsApart := by
  have hmap (r : Platform) : r.windowsApart ↔
      (r.instances.map State.kseBase).Pairwise fun a b => a + windowSize ≤ b ∨ b + windowSize ≤ a := by
    rw [List.pairwise_map]
    rfl
  rw [hmap p, hmap q, h]

/-- The step of block `k` is a step of its own state, put back in its place; where there is none, nothing happens. -/
theorem Platform.stepInstance_cases {p q : Platform} {k : Nat} (h : p.stepInstance k = .next q) :
    q = p ∨ ∃ s t, p.instances[k]? = some s ∧ step s = .next t ∧ q = { p with instances := p.instances.set k t } := by
  unfold Platform.stepInstance at h
  cases hk : p.instances[k]? with
  | none =>
    simp only [hk] at h
    cases h
    exact .inl rfl
  | some s =>
    simp only [hk] at h
    cases hs : step s with
    | next t =>
      simp only [hs] at h
      cases h
      exact .inr ⟨s, t, rfl, hs, rfl⟩
    | fault f => simp [hs] at h
    | refused r => simp [hs] at h

/-! ## The obligations -/

/-- Settles O55: the expansions are their definitions, and the host's value is eight bytes in big-endian order. -/
theorem pseudoInstructionExpansions : Obligations.PseudoInstructionExpansions := by
  unfold Obligations.PseudoInstructionExpansions
  refine ⟨fun h x n hn => h.value64_getLsbD x hn, fun op l x s v bytes j r => ?_⟩
  refine ⟨rfl, rfl, rfl, ?_, fun n hn => ?_, ?_, ?_, rfl, rfl, rfl⟩
  · simp [expandPseudo]
  · simp [expandPseudo, List.getElem?_append_left, hn, offKey]
  · simp [expandPseudo, offKeylen]
  · simp [expandPseudo, offOperand, beByte_eq_setWidth_ushiftRight]

/-- Settles O56: the turns are the label, the read of STATUS, which no BUSY hides, and the branch on its bit 0. -/
theorem pollLoopsExactlyWhileBusy : Obligations.PollLoopsExactlyWhileBusy := by
  unfold Obligations.PollLoopsExactlyWhileBusy
  intro y l x hplace hlabel hread hbranch
  have hstatus : y.machine.block.readOffset 0x001 = some y.machine.block.status := rfl
  refine ⟨_, _, _, System.hostTurn_label hlabel, System.hostTurn_read hread hstatus (by simp [resultOffset]),
    System.hostTurn_branch hbranch, rfl, ?_⟩
  rw [HostAgent.value_advance, HostAgent.value_receive_self]
  cases hbusy : y.machine.block.busy with
  | true =>
    rw [if_pos ((status_and_one_ne_zero_iff _).mpr hbusy)]
    exact ⟨HostAgent.value_receive_self _ x _, hplace⟩
  | false =>
    rw [if_neg (by rw [status_and_one_ne_zero_iff]; exact Bool.eq_false_iff.mp hbusy)]
    exact ⟨HostAgent.value_receive_self _ x _, rfl⟩

/-- Settles O57: a step keeps the base of its window and is put back in its own place alone. -/
theorem instancesAreIndependent : Obligations.InstancesAreIndependent := by
  unfold Obligations.InstancesAreIndependent
  refine ⟨fun placed s => Platform.block_of_mem_reset, fun p q k h => ?_⟩
  rcases Platform.stepInstance_cases h with rfl | ⟨s, t, hk, hstep, rfl⟩
  · exact ⟨rfl, fun _ _ => rfl, id⟩
  · refine ⟨List.length_set, fun j hj => List.getElem?_set_ne hj.symm, (Platform.windowsApart_congr ?_).mp⟩
    obtain ⟨hlt, rfl⟩ := List.getElem?_eq_some_iff.mp hk
    rw [List.map_set, (step_place hstep).1, ← List.getElem_map State.kseBase (h := by simpa using hlt),
      List.set_getElem_self]

end Sys2Proof.Machine
end
